-- ==== Sys2Proof/Word.lean ====
section
/-! DEFINITION. The word types of the M32R-FPU (spec/00_scope.md R8, R16: word 32 bits, halfword 16,
byte 8) and the register number (spec/30_encoding.md R140). -/

namespace Sys2Proof

/-- A 32-bit word: a register's contents, an address (R8). -/
abbrev Word := BitVec 32

/-- A 16-bit halfword (R16). -/
abbrev Half := BitVec 16

/-- An 8-bit byte, the smallest addressable unit (R90). -/
abbrev Byte := BitVec 8

/-- A general-purpose register number, 0 to 15 (R140). Number 15 names the current stack pointer (R33). -/
abbrev Reg := Fin 16

/-- The contents of a 4-bit control register field (R141), assigned or not. -/
abbrev CrNum := Fin 16

end Sys2Proof
end

