-- ==== Sys2Proof/Syntax.lean ====
section
/-! DEFINITION. The instructions of the M32R-FPU: one constructor for each of the 117 encodings of
spec/30_encoding.md R154, in the order of spec/opcode_table.json. Operands stand in assembler order
(R146): a destination register `d`, a source register `s`, two sources `a` and `b`, an immediate, a
displacement, a bit position `t`, a trap number `n`, a control register number `cr`. -/

namespace Sys2Proof

/-- An instruction, its operand fields as the encoding gives them, before extension. -/
inductive Instr where
  /-- `LD Rdest,@Rsrc` (R201): load word. -/
  | ldInd (d s : Reg)
  /-- `LD Rdest,@Rsrc+` (R202): load word, post-increment by 4. -/
  | ldPostInc (d s : Reg)
  /-- `LD Rdest,@(disp16,Rsrc)` (R203): load word, register relative. -/
  | ldDisp (d : Reg) (disp : BitVec 16) (s : Reg)
  /-- `LDB Rdest,@Rsrc` (R204): load byte, sign-extended. -/
  | ldbInd (d s : Reg)
  /-- `LDB Rdest,@(disp16,Rsrc)` (R205): load byte, sign-extended, register relative. -/
  | ldbDisp (d : Reg) (disp : BitVec 16) (s : Reg)
  /-- `LDUB Rdest,@Rsrc` (R206): load byte, zero-extended. -/
  | ldubInd (d s : Reg)
  /-- `LDUB Rdest,@(disp16,Rsrc)` (R207): load byte, zero-extended, register relative. -/
  | ldubDisp (d : Reg) (disp : BitVec 16) (s : Reg)
  /-- `LDH Rdest,@Rsrc` (R208): load halfword, sign-extended. -/
  | ldhInd (d s : Reg)
  /-- `LDH Rdest,@(disp16,Rsrc)` (R209): load halfword, sign-extended, register relative. -/
  | ldhDisp (d : Reg) (disp : BitVec 16) (s : Reg)
  /-- `LDUH Rdest,@Rsrc` (R210): load halfword, zero-extended. -/
  | lduhInd (d s : Reg)
  /-- `LDUH Rdest,@(disp16,Rsrc)` (R211): load halfword, zero-extended, register relative. -/
  | lduhDisp (d : Reg) (disp : BitVec 16) (s : Reg)
  /-- `LOCK Rdest,@Rsrc` (R212): load word and set the LOCK bit. -/
  | lock (d s : Reg)
  /-- `ST Rsrc1,@Rsrc2` (R213): store word. -/
  | stInd (a b : Reg)
  /-- `ST Rsrc1,@+Rsrc2` (R214): store word, pre-increment by 4. -/
  | stPreInc (a b : Reg)
  /-- `ST Rsrc1,@-Rsrc2` (R215): store word, pre-decrement by 4. -/
  | stPreDec (a b : Reg)
  /-- `ST Rsrc1,@(disp16,Rsrc2)` (R216): store word, register relative. -/
  | stDisp (a : Reg) (disp : BitVec 16) (b : Reg)
  /-- `STB Rsrc1,@Rsrc2` (R217): store byte. -/
  | stbInd (a b : Reg)
  /-- `STB Rsrc1,@(disp16,Rsrc2)` (R218): store byte, register relative. -/
  | stbDisp (a : Reg) (disp : BitVec 16) (b : Reg)
  /-- `STH Rsrc1,@Rsrc2` (R219): store halfword. -/
  | sthInd (a b : Reg)
  /-- `STH Rsrc1,@Rsrc2+` (R220): store halfword, post-increment by 2. -/
  | sthPostInc (a b : Reg)
  /-- `STH Rsrc1,@(disp16,Rsrc2)` (R221): store halfword, register relative. -/
  | sthDisp (a : Reg) (disp : BitVec 16) (b : Reg)
  /-- `UNLOCK Rsrc1,@Rsrc2` (R222): store word if the LOCK bit is 1, clear it. -/
  | unlock (a b : Reg)
  /-- `LD24 Rdest,#imm24` (R231): load 24-bit immediate, zero-extended. -/
  | ld24 (d : Reg) (imm : BitVec 24)
  /-- `LDI Rdest,#imm8` (R232): load 8-bit immediate, sign-extended. -/
  | ldi8 (d : Reg) (imm : BitVec 8)
  /-- `LDI Rdest,#imm16` (R233): load 16-bit immediate, sign-extended. -/
  | ldi16 (d : Reg) (imm : BitVec 16)
  /-- `MV Rdest,Rsrc` (R234): move register. -/
  | mv (d s : Reg)
  /-- `MVFC Rdest,CRsrc` (R235): move from control register. -/
  | mvfc (d : Reg) (cr : CrNum)
  /-- `MVTC Rsrc,CRdest` (R236): move to control register. -/
  | mvtc (s : Reg) (cr : CrNum)
  /-- `SETH Rdest,#imm16` (R237): set high-order 16 bits. -/
  | seth (d : Reg) (imm : BitVec 16)
  /-- `CMP Rsrc1,Rsrc2` (R251): compare signed. -/
  | cmp (a b : Reg)
  /-- `CMPI Rsrc,#imm16` (R252): compare signed with immediate. -/
  | cmpi (s : Reg) (imm : BitVec 16)
  /-- `CMPU Rsrc1,Rsrc2` (R253): compare unsigned. -/
  | cmpu (a b : Reg)
  /-- `CMPUI Rsrc,#imm16` (R254): compare unsigned with immediate. -/
  | cmpui (s : Reg) (imm : BitVec 16)
  /-- `ADD Rdest,Rsrc` (R255): add. -/
  | add (d s : Reg)
  /-- `ADD3 Rdest,Rsrc,#imm16` (R256): add immediate, three operands. -/
  | add3 (d s : Reg) (imm : BitVec 16)
  /-- `ADDI Rdest,#imm8` (R257): add 8-bit immediate. -/
  | addi (d : Reg) (imm : BitVec 8)
  /-- `ADDV Rdest,Rsrc` (R258): add with overflow checking. -/
  | addv (d s : Reg)
  /-- `ADDV3 Rdest,Rsrc,#imm16` (R259): add immediate with overflow checking. -/
  | addv3 (d s : Reg) (imm : BitVec 16)
  /-- `ADDX Rdest,Rsrc` (R260): add with carry. -/
  | addx (d s : Reg)
  /-- `NEG Rdest,Rsrc` (R261): negate. -/
  | neg (d s : Reg)
  /-- `SUB Rdest,Rsrc` (R262): subtract. -/
  | sub (d s : Reg)
  /-- `SUBV Rdest,Rsrc` (R263): subtract with overflow checking. -/
  | subv (d s : Reg)
  /-- `SUBX Rdest,Rsrc` (R264): subtract with borrow. -/
  | subx (d s : Reg)
  /-- `AND Rdest,Rsrc` (R265): logical AND. -/
  | and (d s : Reg)
  /-- `AND3 Rdest,Rsrc,#imm16` (R266): logical AND with immediate. -/
  | and3 (d s : Reg) (imm : BitVec 16)
  /-- `NOT Rdest,Rsrc` (R267): logical NOT. -/
  | not (d s : Reg)
  /-- `OR Rdest,Rsrc` (R268): logical OR. -/
  | or (d s : Reg)
  /-- `OR3 Rdest,Rsrc,#imm16` (R269): logical OR with immediate. -/
  | or3 (d s : Reg) (imm : BitVec 16)
  /-- `XOR Rdest,Rsrc` (R270): exclusive OR. -/
  | xor (d s : Reg)
  /-- `XOR3 Rdest,Rsrc,#imm16` (R271): exclusive OR with immediate. -/
  | xor3 (d s : Reg) (imm : BitVec 16)
  /-- `DIV Rdest,Rsrc` (R291): signed divide. -/
  | div (d s : Reg)
  /-- `DIVU Rdest,Rsrc` (R292): unsigned divide. -/
  | divu (d s : Reg)
  /-- `MUL Rdest,Rsrc` (R293): multiply, low 32 bits; destroys the accumulator. -/
  | mul (d s : Reg)
  /-- `REM Rdest,Rsrc` (R294): signed remainder. -/
  | rem (d s : Reg)
  /-- `REMU Rdest,Rsrc` (R295): unsigned remainder. -/
  | remu (d s : Reg)
  /-- `SLL Rdest,Rsrc` (R296): shift left logical. -/
  | sll (d s : Reg)
  /-- `SLL3 Rdest,Rsrc,#imm16` (R297): shift left logical, three operands. -/
  | sll3 (d s : Reg) (imm : BitVec 16)
  /-- `SLLI Rdest,#imm5` (R298): shift left logical immediate. -/
  | slli (d : Reg) (imm : BitVec 5)
  /-- `SRA Rdest,Rsrc` (R299): shift right arithmetic. -/
  | sra (d s : Reg)
  /-- `SRA3 Rdest,Rsrc,#imm16` (R300): shift right arithmetic, three operands. -/
  | sra3 (d s : Reg) (imm : BitVec 16)
  /-- `SRAI Rdest,#imm5` (R301): shift right arithmetic immediate. -/
  | srai (d : Reg) (imm : BitVec 5)
  /-- `SRL Rdest,Rsrc` (R302): shift right logical. -/
  | srl (d s : Reg)
  /-- `SRL3 Rdest,Rsrc,#imm16` (R303): shift right logical, three operands. -/
  | srl3 (d s : Reg) (imm : BitVec 16)
  /-- `SRLI Rdest,#imm5` (R304): shift right logical immediate. -/
  | srli (d : Reg) (imm : BitVec 5)
  /-- `BC pcdisp8` (R322): branch if C is 1, short. -/
  | bc8 (disp : BitVec 8)
  /-- `BC pcdisp24` (R323): branch if C is 1, long. -/
  | bc24 (disp : BitVec 24)
  /-- `BL pcdisp8` (R324): branch and link, short. -/
  | bl8 (disp : BitVec 8)
  /-- `BL pcdisp24` (R325): branch and link, long. -/
  | bl24 (disp : BitVec 24)
  /-- `BNC pcdisp8` (R326): branch if C is 0, short. -/
  | bnc8 (disp : BitVec 8)
  /-- `BNC pcdisp24` (R327): branch if C is 0, long. -/
  | bnc24 (disp : BitVec 24)
  /-- `BRA pcdisp8` (R328): branch, short. -/
  | bra8 (disp : BitVec 8)
  /-- `BRA pcdisp24` (R329): branch, long. -/
  | bra24 (disp : BitVec 24)
  /-- `BEQ Rsrc1,Rsrc2,pcdisp16` (R330): branch if equal. -/
  | beq (a b : Reg) (disp : BitVec 16)
  /-- `BNE Rsrc1,Rsrc2,pcdisp16` (R331): branch if not equal. -/
  | bne (a b : Reg) (disp : BitVec 16)
  /-- `BEQZ Rsrc,pcdisp16` (R332): branch if zero. -/
  | beqz (s : Reg) (disp : BitVec 16)
  /-- `BNEZ Rsrc,pcdisp16` (R333): branch if not zero. -/
  | bnez (s : Reg) (disp : BitVec 16)
  /-- `JL Rsrc` (R334): jump and link. -/
  | jl (s : Reg)
  /-- `JMP Rsrc` (R335): jump. -/
  | jmp (s : Reg)
  /-- `BLTZ Rsrc,pcdisp16` (R336): branch if negative. -/
  | bltz (s : Reg) (disp : BitVec 16)
  /-- `BGEZ Rsrc,pcdisp16` (R337): branch if not negative. -/
  | bgez (s : Reg) (disp : BitVec 16)
  /-- `BLEZ Rsrc,pcdisp16` (R338): branch if not positive. -/
  | blez (s : Reg) (disp : BitVec 16)
  /-- `BGTZ Rsrc,pcdisp16` (R339): branch if positive. -/
  | bgtz (s : Reg) (disp : BitVec 16)
  /-- `NOP` (R340): no operation. -/
  | nop
  /-- `TRAP #imm4` (R351): trap. -/
  | trap (n : Fin 16)
  /-- `RTE` (R352): return from EIT. -/
  | rte
  /-- `MULHI Rsrc1,Rsrc2` (R361): multiply high halfwords into ACC. -/
  | mulhi (a b : Reg)
  /-- `MULLO Rsrc1,Rsrc2` (R362): multiply low halfwords into ACC. -/
  | mullo (a b : Reg)
  /-- `MULWHI Rsrc1,Rsrc2` (R363): multiply word by high halfword into ACC. -/
  | mulwhi (a b : Reg)
  /-- `MULWLO Rsrc1,Rsrc2` (R364): multiply word by low halfword into ACC. -/
  | mulwlo (a b : Reg)
  /-- `MACHI Rsrc1,Rsrc2` (R365): multiply-accumulate high halfwords. -/
  | machi (a b : Reg)
  /-- `MACLO Rsrc1,Rsrc2` (R366): multiply-accumulate low halfwords. -/
  | maclo (a b : Reg)
  /-- `MACWHI Rsrc1,Rsrc2` (R367): multiply-accumulate word by high halfword. -/
  | macwhi (a b : Reg)
  /-- `MACWLO Rsrc1,Rsrc2` (R368): multiply-accumulate word by low halfword. -/
  | macwlo (a b : Reg)
  /-- `MVFACHI Rdest` (R369): move high word from ACC. -/
  | mvfachi (d : Reg)
  /-- `MVFACLO Rdest` (R370): move low word from ACC. -/
  | mvfaclo (d : Reg)
  /-- `MVFACMI Rdest` (R371): move middle word from ACC. -/
  | mvfacmi (d : Reg)
  /-- `MVTACHI Rsrc` (R372): move to high word of ACC. -/
  | mvtachi (s : Reg)
  /-- `MVTACLO Rsrc` (R373): move to low word of ACC. -/
  | mvtaclo (s : Reg)
  /-- `RAC` (R374): round ACC to word size. -/
  | rac
  /-- `RACH` (R375): round ACC to halfword size. -/
  | rach
  /-- `FADD Rdest,Rsrc1,Rsrc2` (R420): floating-point add. -/
  | fadd (d a b : Reg)
  /-- `FSUB Rdest,Rsrc1,Rsrc2` (R421): floating-point subtract. -/
  | fsub (d a b : Reg)
  /-- `FMUL Rdest,Rsrc1,Rsrc2` (R422): floating-point multiply. -/
  | fmul (d a b : Reg)
  /-- `FDIV Rdest,Rsrc1,Rsrc2` (R423): floating-point divide. -/
  | fdiv (d a b : Reg)
  /-- `FMADD Rdest,Rsrc1,Rsrc2` (R424): floating-point multiply and add, two steps. -/
  | fmadd (d a b : Reg)
  /-- `FMSUB Rdest,Rsrc1,Rsrc2` (R425): floating-point multiply and subtract, two steps. -/
  | fmsub (d a b : Reg)
  /-- `ITOF Rdest,Rsrc` (R451): signed integer to float. -/
  | itof (d s : Reg)
  /-- `UTOF Rdest,Rsrc` (R452): unsigned integer to float. -/
  | utof (d s : Reg)
  /-- `FTOI Rdest,Rsrc` (R453): float to 32-bit integer. -/
  | ftoi (d s : Reg)
  /-- `FTOS Rdest,Rsrc` (R454): float to 16-bit integer. -/
  | ftos (d s : Reg)
  /-- `FCMP Rdest,Rsrc1,Rsrc2` (R455): floating-point compare. -/
  | fcmp (d a b : Reg)
  /-- `FCMPE Rdest,Rsrc1,Rsrc2` (R456): floating-point compare, invalid if unordered. -/
  | fcmpe (d a b : Reg)
  /-- `BSET #bitpos,@(disp16,Rsrc)` (R481): set one bit of a memory byte. -/
  | bset (t : BitVec 3) (disp : BitVec 16) (s : Reg)
  /-- `BCLR #bitpos,@(disp16,Rsrc)` (R482): clear one bit of a memory byte. -/
  | bclr (t : BitVec 3) (disp : BitVec 16) (s : Reg)
  /-- `BTST #bitpos,Rsrc` (R483): test one bit of a register. -/
  | btst (t : BitVec 3) (s : Reg)
  /-- `SETPSW #imm8` (R484): set PSW bits. -/
  | setpsw (imm : BitVec 8)
  /-- `CLRPSW #imm8` (R485): clear PSW bits. -/
  | clrpsw (imm : BitVec 8)
deriving DecidableEq, Repr

end Sys2Proof
end

