-- ==== Sys2Proof/WellFormed.lean ====
section
/-! DEFINITION. Which terms of `Instr` are instructions of the hardware. The operand types already
bound every field to its width (spec/30_encoding.md R140 to R142), so one check is left: a control
register field must name one of the six control registers (R141, spec/10_state.md R57). -/

namespace Sys2Proof

/-- The control register numbers that are assigned: CR0 to CR3, CR6, CR7 (R38, R57). -/
def CrNum.assigned (cr : CrNum) : Bool :=
  cr = 0 || cr = 1 || cr = 2 || cr = 3 || cr = 6 || cr = 7

/-- The operands name something the hardware has (R57, R141). -/
def Instr.wellFormed : Instr → Bool
  | .mvfc _ cr => cr.assigned
  | .mvtc _ cr => cr.assigned
  | _ => true

end Sys2Proof
end

