-- ==== Sys2Proof/Decode.lean ====
section
/-! DEFINITION. The decoder, total on any bytes, and after it the encoder (spec/30_encoding.md).
The decoder follows the opcode map of R150 to R153, row by row; the encoder is written from the list of
encodings of R154. Fixed fields are part of the match (R161); an encoding that matches no row is
refused by name (R160, log 5). Bytes stand in the order memory holds them, most significant first
(R92, R93, log 1). -/

namespace Sys2Proof

/-- Why a halfword or word is no instruction. -/
inductive DecodeError where
  /-- The pattern matches no row of the opcode table (R160, R161). Log 5. -/
  | undefinedInstruction
  /-- A low-order halfword with its MSB 1 that is not H'F000 (R137). Log 6. -/
  | parallelSlot
  /-- MVFC or MVTC with a control register number that names no register (R57). Log 14. -/
  | unassignedControlRegister
  /-- Fewer bytes than the instruction is long. The fetch never gives so few. -/
  | truncated
deriving DecidableEq, Repr

/-- Where an instruction is fetched (R131): at a word-aligned address, which is the high-order halfword
of a word, or in the low-order halfword. -/
inductive Slot where
  | high
  | low
deriving DecidableEq, Repr

/-- The code of an instruction: one halfword or one word (R130). -/
inductive Code where
  | half (h : Half)
  | word (w : Word)
deriving DecidableEq, Repr

/-- The four 4-bit positions of a halfword, b0-b3 to b12-b15 (R132). -/
structure Nibbles where
  op1 : BitVec 4
  r1 : BitVec 4
  op2 : BitVec 4
  r2 : BitVec 4
deriving DecidableEq, Repr

/-- A halfword's four positions. -/
def splitHalf (h : Half) : Nibbles :=
  { op1 := h.extractLsb' 12 4, r1 := h.extractLsb' 8 4, op2 := h.extractLsb' 4 4, r2 := h.extractLsb' 0 4 }

/-- The halfword with these four positions. -/
def joinHalf (op1 r1 op2 r2 : BitVec 4) : Half := op1 ++ r1 ++ op2 ++ r2

/-- The high-order halfword of a word, b0 to b15. -/
def highHalf (w : Word) : Half := w.extractLsb' 16 16

/-- The low-order halfword of a word, b16 to b31. -/
def lowHalf (w : Word) : Half := w.extractLsb' 0 16

/-- The word with these four positions and this low-order halfword (R133). -/
def joinWord (op1 r1 op2 r2 : BitVec 4) (c : Half) : Word := joinHalf op1 r1 op2 r2 ++ c

/-- A 4-bit field as a number, for a register or trap number (R140, R142). -/
def fieldNumber (x : BitVec 4) : Fin 16 := x.toFin

/-- A number as a 4-bit field. -/
def numberField (r : Fin 16) : BitVec 4 := BitVec.ofFin r

/-- A row of the opcode table is found, or there is none (R160). -/
abbrev Decoded := Except DecodeError Instr

/-- An encoding that matches no row (R160). -/
def undefinedCode : Decoded := .error .undefinedInstruction

/-- Row 0000 of R150: two-register arithmetic, logic and compare, and BTST. -/
def decodeRow0 (r1 op2 r2 : BitVec 4) : Decoded :=
  let x := fieldNumber r1
  let y := fieldNumber r2
  match op2.toNat with
  | 0x0 => .ok (.subv x y)
  | 0x1 => .ok (.subx x y)
  | 0x2 => .ok (.sub x y)
  | 0x3 => .ok (.neg x y)
  | 0x4 => .ok (.cmp x y)
  | 0x5 => .ok (.cmpu x y)
  | 0x8 => .ok (.addv x y)
  | 0x9 => .ok (.addx x y)
  | 0xA => .ok (.add x y)
  | 0xB => .ok (.not x y)
  | 0xC => .ok (.and x y)
  | 0xD => .ok (.xor x y)
  | 0xE => .ok (.or x y)
  | 0xF => if r1.msb then undefinedCode else .ok (.btst (r1.extractLsb' 0 3) y)
  | _ => undefinedCode

/-- Row 0001 of R150, with the second-level selections of R151 and the control register field of R141. -/
def decodeRow1 (r1 op2 r2 : BitVec 4) : Decoded :=
  let x := fieldNumber r1
  let y := fieldNumber r2
  match op2.toNat with
  | 0x0 => .ok (.srl x y)
  | 0x2 => .ok (.sra x y)
  | 0x4 => .ok (.sll x y)
  | 0x6 => .ok (.mul x y)
  | 0x8 => .ok (.mv x y)
  | 0x9 => if CrNum.assigned y then .ok (.mvfc x y) else .error .unassignedControlRegister
  | 0xA => if CrNum.assigned x then .ok (.mvtc y x) else .error .unassignedControlRegister
  | 0xC =>
    match r1.toNat with
    | 0xE => .ok (.jl y)
    | 0xF => .ok (.jmp y)
    | _ => undefinedCode
  | 0xD => if r1 = 0 ∧ r2 = 6 then .ok .rte else undefinedCode
  | 0xF => if r1 = 0 then .ok (.trap y) else undefinedCode
  | _ => undefinedCode

/-- Row 0010 of R150: load and store by register. -/
def decodeRow2 (r1 op2 r2 : BitVec 4) : Decoded :=
  let x := fieldNumber r1
  let y := fieldNumber r2
  match op2.toNat with
  | 0x0 => .ok (.stbInd x y)
  | 0x2 => .ok (.sthInd x y)
  | 0x3 => .ok (.sthPostInc x y)
  | 0x4 => .ok (.stInd x y)
  | 0x5 => .ok (.unlock x y)
  | 0x6 => .ok (.stPreInc x y)
  | 0x7 => .ok (.stPreDec x y)
  | 0x8 => .ok (.ldbInd x y)
  | 0x9 => .ok (.ldubInd x y)
  | 0xA => .ok (.ldhInd x y)
  | 0xB => .ok (.lduhInd x y)
  | 0xC => .ok (.ldInd x y)
  | 0xD => .ok (.lock x y)
  | 0xE => .ok (.ldPostInc x y)
  | _ => undefinedCode

/-- Row 0011 of R150: multiply and multiply-accumulate. -/
def decodeRow3 (r1 op2 r2 : BitVec 4) : Decoded :=
  let x := fieldNumber r1
  let y := fieldNumber r2
  match op2.toNat with
  | 0x0 => .ok (.mulhi x y)
  | 0x1 => .ok (.mullo x y)
  | 0x2 => .ok (.mulwhi x y)
  | 0x3 => .ok (.mulwlo x y)
  | 0x4 => .ok (.machi x y)
  | 0x5 => .ok (.maclo x y)
  | 0x6 => .ok (.macwhi x y)
  | 0x7 => .ok (.macwlo x y)
  | _ => undefinedCode

/-- Row 0101 of R150: shifts by an immediate, whose top bit is b11, and the accumulator moves and
rounds, selected by b12-b15 (R152). -/
def decodeRow5 (r1 op2 r2 : BitVec 4) : Decoded :=
  let x := fieldNumber r1
  let imm5 : BitVec 5 := op2.extractLsb' 0 1 ++ r2
  match op2.toNat with
  | 0x0 => .ok (.srli x imm5)
  | 0x1 => .ok (.srli x imm5)
  | 0x2 => .ok (.srai x imm5)
  | 0x3 => .ok (.srai x imm5)
  | 0x4 => .ok (.slli x imm5)
  | 0x5 => .ok (.slli x imm5)
  | 0x7 =>
    match r2.toNat with
    | 0x0 => .ok (.mvtachi x)
    | 0x1 => .ok (.mvtaclo x)
    | _ => undefinedCode
  | 0x8 => if r1 = 0 ∧ r2 = 0 then .ok .rach else undefinedCode
  | 0x9 => if r1 = 0 ∧ r2 = 0 then .ok .rac else undefinedCode
  | 0xF =>
    match r2.toNat with
    | 0x0 => .ok (.mvfachi x)
    | 0x1 => .ok (.mvfaclo x)
    | 0x2 => .ok (.mvfacmi x)
    | _ => undefinedCode
  | _ => undefinedCode

/-- Row 0111 of R150, selected by b4-b7 (R151). -/
def decodeRow7 (r1 : BitVec 4) (c : BitVec 8) : Decoded :=
  match r1.toNat with
  | 0x0 => if c = 0 then .ok .nop else undefinedCode
  | 0x1 => .ok (.setpsw c)
  | 0x2 => .ok (.clrpsw c)
  | 0xC => .ok (.bc8 c)
  | 0xD => .ok (.bnc8 c)
  | 0xE => .ok (.bl8 c)
  | 0xF => .ok (.bra8 c)
  | _ => undefinedCode

/-- The 16-bit rows of R150, selected by b0-b3. -/
def decodeNibbles (x : Nibbles) : Decoded :=
  match x.op1.toNat with
  | 0x0 => decodeRow0 x.r1 x.op2 x.r2
  | 0x1 => decodeRow1 x.r1 x.op2 x.r2
  | 0x2 => decodeRow2 x.r1 x.op2 x.r2
  | 0x3 => decodeRow3 x.r1 x.op2 x.r2
  | 0x4 => .ok (.addi (fieldNumber x.r1) (x.op2 ++ x.r2))
  | 0x5 => decodeRow5 x.r1 x.op2 x.r2
  | 0x6 => .ok (.ldi8 (fieldNumber x.r1) (x.op2 ++ x.r2))
  | 0x7 => decodeRow7 x.r1 (x.op2 ++ x.r2)
  | _ => undefinedCode

/-- Decode a halfword as a 16-bit instruction (R131, R150). -/
def decodeHalf (h : Half) : Decoded := decodeNibbles (splitHalf h)

/-- Row 1000 of R150: arithmetic and logic with a 16-bit immediate, and the immediate compares. -/
def decodeRow8 (r1 op2 r2 : BitVec 4) (c : Half) : Decoded :=
  let x := fieldNumber r1
  let y := fieldNumber r2
  match op2.toNat with
  | 0x4 => if r1 = 0 then .ok (.cmpi y c) else undefinedCode
  | 0x5 => if r1 = 0 then .ok (.cmpui y c) else undefinedCode
  | 0x8 => .ok (.addv3 x y c)
  | 0xA => .ok (.add3 x y c)
  | 0xC => .ok (.and3 x y c)
  | 0xD => .ok (.xor3 x y c)
  | 0xE => .ok (.or3 x y c)
  | _ => undefinedCode

/-- Row 1001 of R150: divide and remainder with a zero low halfword (R161), shifts, LDI #imm16. -/
def decodeRow9 (r1 op2 r2 : BitVec 4) (c : Half) : Decoded :=
  let x := fieldNumber r1
  let y := fieldNumber r2
  match op2.toNat with
  | 0x0 => if c = 0 then .ok (.div x y) else undefinedCode
  | 0x1 => if c = 0 then .ok (.divu x y) else undefinedCode
  | 0x2 => if c = 0 then .ok (.rem x y) else undefinedCode
  | 0x3 => if c = 0 then .ok (.remu x y) else undefinedCode
  | 0x8 => .ok (.srl3 x y c)
  | 0xA => .ok (.sra3 x y c)
  | 0xC => .ok (.sll3 x y c)
  | 0xF => if r2 = 0 then .ok (.ldi16 x c) else undefinedCode
  | _ => undefinedCode

/-- Row 1010 of R150: load and store with a displacement, BSET, BCLR. -/
def decodeRowA (r1 op2 r2 : BitVec 4) (c : Half) : Decoded :=
  let x := fieldNumber r1
  let y := fieldNumber r2
  match op2.toNat with
  | 0x0 => .ok (.stbDisp x c y)
  | 0x2 => .ok (.sthDisp x c y)
  | 0x4 => .ok (.stDisp x c y)
  | 0x6 => if r1.msb then undefinedCode else .ok (.bset (r1.extractLsb' 0 3) c y)
  | 0x7 => if r1.msb then undefinedCode else .ok (.bclr (r1.extractLsb' 0 3) c y)
  | 0x8 => .ok (.ldbDisp x c y)
  | 0x9 => .ok (.ldubDisp x c y)
  | 0xA => .ok (.ldhDisp x c y)
  | 0xB => .ok (.lduhDisp x c y)
  | 0xC => .ok (.ldDisp x c y)
  | _ => undefinedCode

/-- Row 1011 of R150: compare and branch. -/
def decodeRowB (r1 op2 r2 : BitVec 4) (c : Half) : Decoded :=
  let x := fieldNumber r1
  let y := fieldNumber r2
  match op2.toNat with
  | 0x0 => .ok (.beq x y c)
  | 0x1 => .ok (.bne x y c)
  | 0x8 => if r1 = 0 then .ok (.beqz y c) else undefinedCode
  | 0x9 => if r1 = 0 then .ok (.bnez y c) else undefinedCode
  | 0xA => if r1 = 0 then .ok (.bltz y c) else undefinedCode
  | 0xB => if r1 = 0 then .ok (.bgez y c) else undefinedCode
  | 0xC => if r1 = 0 then .ok (.blez y c) else undefinedCode
  | 0xD => if r1 = 0 then .ok (.bgtz y c) else undefinedCode
  | _ => undefinedCode

/-- The floating-point sub-map of R153, indexed by op3 = b16-b19 and op4 = b24-b27, with b28-b31 = 0. -/
def decodeFloat (r1 r2 : BitVec 4) (c : Nibbles) : Decoded :=
  let x := fieldNumber r1
  let y := fieldNumber r2
  let d := fieldNumber c.r1
  if c.r2 = 0 then
    match c.op1.toNat with
    | 0x0 =>
      match c.op2.toNat with
      | 0x0 => .ok (.fadd d x y)
      | 0x4 => .ok (.fsub d x y)
      | 0xC => .ok (.fcmp d x y)
      | 0xD => .ok (.fcmpe d x y)
      | _ => undefinedCode
    | 0x1 => if c.op2 = 0 then .ok (.fmul d x y) else undefinedCode
    | 0x2 => if c.op2 = 0 then .ok (.fdiv d x y) else undefinedCode
    | 0x3 =>
      match c.op2.toNat with
      | 0x0 => .ok (.fmadd d x y)
      | 0x4 => .ok (.fmsub d x y)
      | _ => undefinedCode
    | 0x4 =>
      if r2 = 0 then
        match c.op2.toNat with
        | 0x0 => .ok (.itof d x)
        | 0x4 => .ok (.utof d x)
        | 0x8 => .ok (.ftoi d x)
        | 0xC => .ok (.ftos d x)
        | _ => undefinedCode
      else undefinedCode
    | _ => undefinedCode
  else undefinedCode

/-- Row 1101 of R150: floating point (b8-b11 = 0000) and SETH. -/
def decodeRowD (r1 op2 r2 : BitVec 4) (c : Half) : Decoded :=
  match op2.toNat with
  | 0x0 => decodeFloat r1 r2 (splitHalf c)
  | 0xC => if r2 = 0 then .ok (.seth (fieldNumber r1) c) else undefinedCode
  | _ => undefinedCode

/-- Row 1111 of R150: the long branches, selected by b4-b7 (R151). -/
def decodeRowF (r1 : BitVec 4) (c : BitVec 24) : Decoded :=
  match r1.toNat with
  | 0xC => .ok (.bc24 c)
  | 0xD => .ok (.bnc24 c)
  | 0xE => .ok (.bl24 c)
  | 0xF => .ok (.bra24 c)
  | _ => undefinedCode

/-- The 32-bit rows of R150, selected by b0-b3; row 1100 is empty (R135). -/
def decodeWide (x : Nibbles) (c : Half) : Decoded :=
  match x.op1.toNat with
  | 0x8 => decodeRow8 x.r1 x.op2 x.r2 c
  | 0x9 => decodeRow9 x.r1 x.op2 x.r2 c
  | 0xA => decodeRowA x.r1 x.op2 x.r2 c
  | 0xB => decodeRowB x.r1 x.op2 x.r2 c
  | 0xD => decodeRowD x.r1 x.op2 x.r2 c
  | 0xE => .ok (.ld24 (fieldNumber x.r1) (x.op2 ++ x.r2 ++ c))
  | 0xF => decodeRowF x.r1 (x.op2 ++ x.r2 ++ c)
  | _ => undefinedCode

/-- Decode a word as a 32-bit instruction (R131, R150). -/
def decodeWord (w : Word) : Decoded := decodeWide (splitHalf (highHalf w)) (lowHalf w)

/-- Decode a code, by its length. -/
def decodeCode : Code → Decoded
  | .half h => decodeHalf h
  | .word w => decodeWord w

/-- Decode a low-order halfword (R131): MSB 0 is a 16-bit instruction, H'F000 is NOP in the parallel
slot (R136), any other halfword with MSB 1 is refused (R137). -/
def decodeLowSlot (h : Half) : Decoded :=
  if h.msb then
    if h = 0xF000 then .ok .nop else .error .parallelSlot
  else decodeHalf h

/-- The halfword that two bytes in memory order hold (R93). -/
def halfOfBytes (b0 b1 : Byte) : Half := b0 ++ b1

/-- The word that four bytes in memory order hold (R93). -/
def wordOfBytes (b0 b1 b2 b3 : Byte) : Word := b0 ++ b1 ++ b2 ++ b3

/-- A decoded instruction and the bytes after it. -/
def withRest (rest : List Byte) : Decoded → Except DecodeError (Instr × List Byte)
  | .ok i => .ok (i, rest)
  | .error e => .error e

/-- Decode the instruction at the head of a list of bytes, fetched in the given slot (R131): at a
word-aligned address the first bit tells a 32-bit instruction from a 16-bit one. -/
def decodeBytes : Slot → List Byte → Except DecodeError (Instr × List Byte)
  | .low, b0 :: b1 :: rest => withRest rest (decodeLowSlot (halfOfBytes b0 b1))
  | .high, b0 :: b1 :: rest =>
    if b0.msb then
      match rest with
      | b2 :: b3 :: rest' => withRest rest' (decodeWord (wordOfBytes b0 b1 b2 b3))
      | _ => .error .truncated
    else withRest rest (decodeHalf (halfOfBytes b0 b1))
  | _, _ => .error .truncated

/-- A halfword's bytes in memory order (R93). -/
def bytesOfHalf (h : Half) : List Byte := [h.extractLsb' 8 8, h.extractLsb' 0 8]

/-- A word's bytes in memory order (R93). -/
def bytesOfWord (w : Word) : List Byte :=
  [w.extractLsb' 24 8, w.extractLsb' 16 8, w.extractLsb' 8 8, w.extractLsb' 0 8]

/-- A code's bytes in memory order. -/
def Code.bytes : Code → List Byte
  | .half h => bytesOfHalf h
  | .word w => bytesOfWord w

/-- The bytes of an instruction whose bits, numbered as spec/opcode_table.json numbers them, are `w`: a
32-bit row is one number of 32 bits, a 16-bit row one of 16, followed by zero bytes up to the longest
instruction. -/
def tableBytes (nbits w : Nat) : List Byte :=
  if nbits ≤ 16 then bytesOfHalf (BitVec.ofNat 16 w) ++ [0, 0] else bytesOfWord (BitVec.ofNat 32 w)

/-- The instruction the decoder reads from a word of the opcode table, fetched at a word-aligned
address. -/
def decodeTableWord (nbits w : Nat) : Option Instr :=
  match decodeBytes .high (tableBytes nbits w) with
  | .ok (i, _) => some i
  | .error _ => none

/-- The high-order four bits of a byte field. -/
def highNibble (c : BitVec 8) : BitVec 4 := c.extractLsb' 4 4

/-- The low-order four bits of a byte field. -/
def lowNibble (c : BitVec 8) : BitVec 4 := c.extractLsb' 0 4

/-- The code of an immediate shift: b8-b10 select it, b11-b15 are imm5 (R132, 16-RI5). -/
def shiftCode (d : Reg) (op : BitVec 3) (imm : BitVec 5) : Half :=
  joinHalf 0x5 (numberField d) (op ++ imm.extractLsb' 4 1) (imm.extractLsb' 0 4)

/-- The code of a 16-bit form with an 8-bit constant in b8-b15 (R132, 16-RI8 and 16-B8). -/
def byteCode (op1 r1 : BitVec 4) (c : BitVec 8) : Half := joinHalf op1 r1 (highNibble c) (lowNibble c)

/-- The code of a 32-bit form with a 24-bit constant in b8-b31 (R133, 32-RI24 and 32-B24). -/
def longCode (op1 r1 : BitVec 4) (c : BitVec 24) : Word :=
  joinWord op1 r1 (c.extractLsb' 20 4) (c.extractLsb' 16 4) (c.extractLsb' 0 16)

/-- The code of a floating-point form (R134). -/
def floatCode (rs1 rs2 op3 rd op4 : BitVec 4) : Word := joinWord 0xD rs1 0 rs2 (joinHalf op3 rd op4 0)

/-- A bit position field with b4 = 0 before it (R144). -/
def bitField (t : BitVec 3) : BitVec 4 := (0 : BitVec 1) ++ t

/-- The code of an instruction, written from the list of R154. -/
def encode : Instr → Code
  | .ldInd d s => .half (joinHalf 0x2 (numberField d) 0xC (numberField s))
  | .ldPostInc d s => .half (joinHalf 0x2 (numberField d) 0xE (numberField s))
  | .ldDisp d disp s => .word (joinWord 0xA (numberField d) 0xC (numberField s) disp)
  | .ldbInd d s => .half (joinHalf 0x2 (numberField d) 0x8 (numberField s))
  | .ldbDisp d disp s => .word (joinWord 0xA (numberField d) 0x8 (numberField s) disp)
  | .ldubInd d s => .half (joinHalf 0x2 (numberField d) 0x9 (numberField s))
  | .ldubDisp d disp s => .word (joinWord 0xA (numberField d) 0x9 (numberField s) disp)
  | .ldhInd d s => .half (joinHalf 0x2 (numberField d) 0xA (numberField s))
  | .ldhDisp d disp s => .word (joinWord 0xA (numberField d) 0xA (numberField s) disp)
  | .lduhInd d s => .half (joinHalf 0x2 (numberField d) 0xB (numberField s))
  | .lduhDisp d disp s => .word (joinWord 0xA (numberField d) 0xB (numberField s) disp)
  | .lock d s => .half (joinHalf 0x2 (numberField d) 0xD (numberField s))
  | .stInd a b => .half (joinHalf 0x2 (numberField a) 0x4 (numberField b))
  | .stPreInc a b => .half (joinHalf 0x2 (numberField a) 0x6 (numberField b))
  | .stPreDec a b => .half (joinHalf 0x2 (numberField a) 0x7 (numberField b))
  | .stDisp a disp b => .word (joinWord 0xA (numberField a) 0x4 (numberField b) disp)
  | .stbInd a b => .half (joinHalf 0x2 (numberField a) 0x0 (numberField b))
  | .stbDisp a disp b => .word (joinWord 0xA (numberField a) 0x0 (numberField b) disp)
  | .sthInd a b => .half (joinHalf 0x2 (numberField a) 0x2 (numberField b))
  | .sthPostInc a b => .half (joinHalf 0x2 (numberField a) 0x3 (numberField b))
  | .sthDisp a disp b => .word (joinWord 0xA (numberField a) 0x2 (numberField b) disp)
  | .unlock a b => .half (joinHalf 0x2 (numberField a) 0x5 (numberField b))
  | .ld24 d imm => .word (longCode 0xE (numberField d) imm)
  | .ldi8 d imm => .half (byteCode 0x6 (numberField d) imm)
  | .ldi16 d imm => .word (joinWord 0x9 (numberField d) 0xF 0x0 imm)
  | .mv d s => .half (joinHalf 0x1 (numberField d) 0x8 (numberField s))
  | .mvfc d cr => .half (joinHalf 0x1 (numberField d) 0x9 (numberField cr))
  | .mvtc s cr => .half (joinHalf 0x1 (numberField cr) 0xA (numberField s))
  | .seth d imm => .word (joinWord 0xD (numberField d) 0xC 0x0 imm)
  | .cmp a b => .half (joinHalf 0x0 (numberField a) 0x4 (numberField b))
  | .cmpi s imm => .word (joinWord 0x8 0x0 0x4 (numberField s) imm)
  | .cmpu a b => .half (joinHalf 0x0 (numberField a) 0x5 (numberField b))
  | .cmpui s imm => .word (joinWord 0x8 0x0 0x5 (numberField s) imm)
  | .add d s => .half (joinHalf 0x0 (numberField d) 0xA (numberField s))
  | .add3 d s imm => .word (joinWord 0x8 (numberField d) 0xA (numberField s) imm)
  | .addi d imm => .half (byteCode 0x4 (numberField d) imm)
  | .addv d s => .half (joinHalf 0x0 (numberField d) 0x8 (numberField s))
  | .addv3 d s imm => .word (joinWord 0x8 (numberField d) 0x8 (numberField s) imm)
  | .addx d s => .half (joinHalf 0x0 (numberField d) 0x9 (numberField s))
  | .neg d s => .half (joinHalf 0x0 (numberField d) 0x3 (numberField s))
  | .sub d s => .half (joinHalf 0x0 (numberField d) 0x2 (numberField s))
  | .subv d s => .half (joinHalf 0x0 (numberField d) 0x0 (numberField s))
  | .subx d s => .half (joinHalf 0x0 (numberField d) 0x1 (numberField s))
  | .and d s => .half (joinHalf 0x0 (numberField d) 0xC (numberField s))
  | .and3 d s imm => .word (joinWord 0x8 (numberField d) 0xC (numberField s) imm)
  | .not d s => .half (joinHalf 0x0 (numberField d) 0xB (numberField s))
  | .or d s => .half (joinHalf 0x0 (numberField d) 0xE (numberField s))
  | .or3 d s imm => .word (joinWord 0x8 (numberField d) 0xE (numberField s) imm)
  | .xor d s => .half (joinHalf 0x0 (numberField d) 0xD (numberField s))
  | .xor3 d s imm => .word (joinWord 0x8 (numberField d) 0xD (numberField s) imm)
  | .div d s => .word (joinWord 0x9 (numberField d) 0x0 (numberField s) 0)
  | .divu d s => .word (joinWord 0x9 (numberField d) 0x1 (numberField s) 0)
  | .mul d s => .half (joinHalf 0x1 (numberField d) 0x6 (numberField s))
  | .rem d s => .word (joinWord 0x9 (numberField d) 0x2 (numberField s) 0)
  | .remu d s => .word (joinWord 0x9 (numberField d) 0x3 (numberField s) 0)
  | .sll d s => .half (joinHalf 0x1 (numberField d) 0x4 (numberField s))
  | .sll3 d s imm => .word (joinWord 0x9 (numberField d) 0xC (numberField s) imm)
  | .slli d imm => .half (shiftCode d 2 imm)
  | .sra d s => .half (joinHalf 0x1 (numberField d) 0x2 (numberField s))
  | .sra3 d s imm => .word (joinWord 0x9 (numberField d) 0xA (numberField s) imm)
  | .srai d imm => .half (shiftCode d 1 imm)
  | .srl d s => .half (joinHalf 0x1 (numberField d) 0x0 (numberField s))
  | .srl3 d s imm => .word (joinWord 0x9 (numberField d) 0x8 (numberField s) imm)
  | .srli d imm => .half (shiftCode d 0 imm)
  | .bc8 disp => .half (byteCode 0x7 0xC disp)
  | .bc24 disp => .word (longCode 0xF 0xC disp)
  | .bl8 disp => .half (byteCode 0x7 0xE disp)
  | .bl24 disp => .word (longCode 0xF 0xE disp)
  | .bnc8 disp => .half (byteCode 0x7 0xD disp)
  | .bnc24 disp => .word (longCode 0xF 0xD disp)
  | .bra8 disp => .half (byteCode 0x7 0xF disp)
  | .bra24 disp => .word (longCode 0xF 0xF disp)
  | .beq a b disp => .word (joinWord 0xB (numberField a) 0x0 (numberField b) disp)
  | .bne a b disp => .word (joinWord 0xB (numberField a) 0x1 (numberField b) disp)
  | .beqz s disp => .word (joinWord 0xB 0x0 0x8 (numberField s) disp)
  | .bnez s disp => .word (joinWord 0xB 0x0 0x9 (numberField s) disp)
  | .jl s => .half (joinHalf 0x1 0xE 0xC (numberField s))
  | .jmp s => .half (joinHalf 0x1 0xF 0xC (numberField s))
  | .bltz s disp => .word (joinWord 0xB 0x0 0xA (numberField s) disp)
  | .bgez s disp => .word (joinWord 0xB 0x0 0xB (numberField s) disp)
  | .blez s disp => .word (joinWord 0xB 0x0 0xC (numberField s) disp)
  | .bgtz s disp => .word (joinWord 0xB 0x0 0xD (numberField s) disp)
  | .nop => .half (joinHalf 0x7 0x0 0x0 0x0)
  | .trap n => .half (joinHalf 0x1 0x0 0xF (numberField n))
  | .rte => .half (joinHalf 0x1 0x0 0xD 0x6)
  | .mulhi a b => .half (joinHalf 0x3 (numberField a) 0x0 (numberField b))
  | .mullo a b => .half (joinHalf 0x3 (numberField a) 0x1 (numberField b))
  | .mulwhi a b => .half (joinHalf 0x3 (numberField a) 0x2 (numberField b))
  | .mulwlo a b => .half (joinHalf 0x3 (numberField a) 0x3 (numberField b))
  | .machi a b => .half (joinHalf 0x3 (numberField a) 0x4 (numberField b))
  | .maclo a b => .half (joinHalf 0x3 (numberField a) 0x5 (numberField b))
  | .macwhi a b => .half (joinHalf 0x3 (numberField a) 0x6 (numberField b))
  | .macwlo a b => .half (joinHalf 0x3 (numberField a) 0x7 (numberField b))
  | .mvfachi d => .half (joinHalf 0x5 (numberField d) 0xF 0x0)
  | .mvfaclo d => .half (joinHalf 0x5 (numberField d) 0xF 0x1)
  | .mvfacmi d => .half (joinHalf 0x5 (numberField d) 0xF 0x2)
  | .mvtachi s => .half (joinHalf 0x5 (numberField s) 0x7 0x0)
  | .mvtaclo s => .half (joinHalf 0x5 (numberField s) 0x7 0x1)
  | .rac => .half (joinHalf 0x5 0x0 0x9 0x0)
  | .rach => .half (joinHalf 0x5 0x0 0x8 0x0)
  | .fadd d a b => .word (floatCode (numberField a) (numberField b) 0x0 (numberField d) 0x0)
  | .fsub d a b => .word (floatCode (numberField a) (numberField b) 0x0 (numberField d) 0x4)
  | .fmul d a b => .word (floatCode (numberField a) (numberField b) 0x1 (numberField d) 0x0)
  | .fdiv d a b => .word (floatCode (numberField a) (numberField b) 0x2 (numberField d) 0x0)
  | .fmadd d a b => .word (floatCode (numberField a) (numberField b) 0x3 (numberField d) 0x0)
  | .fmsub d a b => .word (floatCode (numberField a) (numberField b) 0x3 (numberField d) 0x4)
  | .itof d s => .word (floatCode (numberField s) 0x0 0x4 (numberField d) 0x0)
  | .utof d s => .word (floatCode (numberField s) 0x0 0x4 (numberField d) 0x4)
  | .ftoi d s => .word (floatCode (numberField s) 0x0 0x4 (numberField d) 0x8)
  | .ftos d s => .word (floatCode (numberField s) 0x0 0x4 (numberField d) 0xC)
  | .fcmp d a b => .word (floatCode (numberField a) (numberField b) 0x0 (numberField d) 0xC)
  | .fcmpe d a b => .word (floatCode (numberField a) (numberField b) 0x0 (numberField d) 0xD)
  | .bset t disp s => .word (joinWord 0xA (bitField t) 0x6 (numberField s) disp)
  | .bclr t disp s => .word (joinWord 0xA (bitField t) 0x7 (numberField s) disp)
  | .btst t s => .half (joinHalf 0x0 (bitField t) 0xF (numberField s))
  | .setpsw imm => .half (byteCode 0x7 0x1 imm)
  | .clrpsw imm => .half (byteCode 0x7 0x2 imm)

/-- How many bytes an instruction takes (R130). -/
def Instr.length (i : Instr) : Nat := (encode i).bytes.length

end Sys2Proof
end

