-- ==== Sys2Proof/Machine/MemMap.lean ====
section
/-! DEFINITION. The parameter MEM_MAP of spec/00_scope.md R9 as plain data: what each address holds
(spec/20_memory.md R90, R110). The spec leaves the map to the product (D23), so State holds it, no step
changes it, and a statement about every state holds for every map (log 22). -/

namespace Sys2Proof.Machine

/-- What an address holds (spec/92_eei_decisions.md, the parameter MEM_MAP). -/
inductive Holding where
  /-- Ordinary memory (R103). -/
  | ram
  /-- Memory that a write leaves as it is (log 46). -/
  | rom
  /-- A device, with the host's read and write functions (log 47). -/
  | device
  /-- Nothing is mapped there (log 48). -/
  | nothing
deriving DecidableEq, Repr

/-- Whether a read there gives what is stored: RAM and ROM. -/
def Holding.stored : Holding → Bool
  | .ram => true
  | .rom => true
  | .device => false
  | .nothing => false

/-- A range of addresses, both ends among them, and what they hold. -/
structure Region where
  first : Word
  last : Word
  holds : Holding
deriving DecidableEq, Repr

/-- One transfer on the bus: an instruction fetch (R131), or a data access of one of the three sizes
(R100). -/
inductive Access where
  | fetch
  | byte
  | half
  | word
deriving DecidableEq, Repr

/-- What a map says of an address: the first region that has it decides, and an address in no region is
ordinary memory, the default of MEM_MAP. -/
def holdingIn : List Region → Word → Holding
  | [], _ => .ram
  | r :: rest, a => if r.first ≤ a ∧ a ≤ r.last then r.holds else holdingIn rest a

end Sys2Proof.Machine
end

