-- ==== Sys2Proof/Config.lean ====
section
/-! DEFINITION. The free values: values the spec leaves to be drawn (spec/93_implementation_defined.md
U2 to U7). Each is an opaque constant with no body, applied to the draw number that State counts, so
nothing can be proved of the value drawn. The parameters EIT_VECTOR, EXT_INT and MEM_MAP are fields of
State; the read and write functions that MEM_MAP gives a device (spec/20_memory.md R96, R97) are opaque
constants here, functions of the draw number, of the devices' state and of the access. -/

namespace Sys2Proof.Config

/-- What `LD Rn,@Rn+` leaves in Rn: `any32` (R223, U3). Log 35. -/
opaque loadOverUpdatedBase : Nat → Word

/-- Whether `ST Rn,@+Rn` stores the incremented Rn (true) or the old one (R223, U3). Log 36. -/
opaque preIncStoresUpdated : Nat → Bool

/-- Whether `ST Rn,@-Rn` stores the decremented Rn (true) or the old one (R223, U3). Log 36. -/
opaque preDecStoresUpdated : Nat → Bool

/-- Whether `JL R14` jumps to the new link value (true) or to the old R14 (R334, U3). Log 37. -/
opaque jumpsToNewLink : Nat → Bool

/-- The quotient that DIV gives for H'8000 0000 by H'FFFF FFFF (R291, U7). Log 15. -/
opaque overflowQuotient : Nat → Word

/-- The remainder that REM gives for H'8000 0000 by H'FFFF FFFF (R294, U7). Log 15. -/
opaque overflowRemainder : Nat → Word

/-- The accumulator after MUL (R293, U2). Log 38. -/
opaque accAfterMul : Nat → BitVec 56

/-- PSW.BSM after RTE (R352, U4). Log 32. -/
opaque bsmAfterRte : Nat → Bool

/-- PSW.BIE after RTE (R352, U4). Log 32. -/
opaque bieAfterRte : Nat → Bool

/-- PSW.BC after RTE (R352, U4). Log 32. -/
opaque bcAfterRte : Nat → Bool

/-- BPC bits [31:1] after RTE (R352, U4). Log 32. -/
opaque bpcAfterRte : Nat → BitVec 31

/-- The sign of the zero that a masked underflow returns: of a one-step operation, or of step 2 of a
multiply-add (R411, U6). Log 17. -/
opaque flushedZeroSign : Nat → Bool

/-- The sign of the zero that a masked underflow in step 1 of a multiply-add gives (R411, R428, U6). Log 17. -/
opaque flushedProductSign : Nat → Bool

/-- Bits [30:0] of a compare result of class "less" (R457, U5). Log 39. -/
opaque lessBits : Nat → BitVec 31

/-- Bits [30:0] proposed for a compare result of class "greater" (R457, U5). Log 39. -/
opaque greaterBits : Nat → BitVec 31

/-- Bits [21:0] of a compare result of class "invalid" (R457, U5). Log 39. -/
opaque invalidBits : Nat → BitVec 22

/-- What a device answers to a read: `MEM_MAP`'s read function of the draw number, the devices' state, the
address and the access; a narrow access takes the low-order bits (R96, R110). Log 47. -/
opaque deviceRead : Nat → Nat → Word → Machine.Access → Word

/-- The devices' state after a read: the side effect of that read function (R96, R103). Log 47. -/
opaque deviceAfterRead : Nat → Nat → Word → Machine.Access → Nat

/-- The devices' state after a write: `MEM_MAP`'s write function, the value written last; a narrow value
is zero-extended (R97). Log 47. -/
opaque deviceAfterWrite : Nat → Nat → Word → Machine.Access → Word → Nat

/-- What a read gives at an address with nothing mapped (R96). Log 48. -/
opaque nothingRead : Nat → Word → Machine.Access → Word

end Sys2Proof.Config
end

