-- ==== Sys2Proof/Machine/Vectors.lean ====
section
/-! DEFINITION. The parameter EIT_VECTOR of spec/60_exceptions.md R514 as plain data: where control
goes on each event. The spec leaves the addresses to the product (D2), so the table is held in State,
no step changes it, and a statement about every state holds for every table (log 2). -/

namespace Sys2Proof.Machine

/-- The number of a memory word: a word-aligned address without its two zero bits (R514). -/
abbrev WordNumber := BitVec 30

/-- The entry of each event (R514). Reset is not among them: its address is stated (R67). -/
structure Vectors where
  /-- Address exception. -/
  ae : WordNumber
  /-- Floating-point exception. -/
  fpe : WordNumber
  /-- External interrupt. -/
  ei : WordNumber
  /-- TRAP 0 to TRAP 15. -/
  trap : Vector WordNumber 16
deriving DecidableEq, Repr

/-- The default table of R514: AE H'30, TRAP n H'40 + 4n, EI H'80, FPE H'90. PRESUMED: the spec takes it
from general knowledge of the family (log 2). -/
def familyVectors : Vectors :=
  { ae := 0x30 / 4, fpe := 0x90 / 4, ei := 0x80 / 4
    trap := Vector.ofFn fun n => BitVec.ofNat 30 (0x40 / 4 + n.val) }

end Sys2Proof.Machine
end

