-- ==== Sys2Proof/Machine/State.lean ====
section
/-! DEFINITION. The state of the machine, plain data: everything spec/10_state.md R30 lists, and the
model's own fields for the spec's parameters and for free values (INVENTORY.md, State). -/

namespace Sys2Proof.Machine

/-- Why the machine stops with a fault. The spec gives the hardware none: every exception is an EIT
with an entry (R501). -/
inductive Fault where
  /-- Raised by `step` when bit [0] of the pc is 1, which the spec says cannot be (R65, R99). Safe: no
  state that a run reaches raises it (log 41). -/
  | oddPc
deriving DecidableEq, Repr

/-- Why the machine gives an instruction no meaning. -/
inductive Refusal where
  /-- Raised by an arm of `exec` whose instruction has no meaning yet. Safe. -/
  | notModelled (mnemonic : String)
  /-- Raised by `step` on an encoding that matches no row of the opcode table (R160, R161). Safe: the
  spec promises nothing after it (log 5). -/
  | undefinedInstruction
  /-- Raised by `step` on a low-order halfword with MSB 1 other than H'F000 (R137). Safe (log 6). -/
  | parallelSlot
  /-- Raised by `step`, and by MVFC and MVTC, on a control register number that names no register
  (R57). Safe (log 14). -/
  | unassignedControlRegister
  /-- Raised by UNLOCK when the LOCK bit is 0 and the address is not word-aligned (R222). Safe (log 20). -/
  | unlockMisaligned
deriving DecidableEq, Repr

/-- The six stored bits of the PSW (R39); every other bit reads 0 and has no storage (R41). -/
structure Psw where
  /-- Backup SM bit, PSW[15]. -/
  bsm : Bool
  /-- Backup IE bit, PSW[14]. -/
  bie : Bool
  /-- Backup C bit, PSW[8]. -/
  bc : Bool
  /-- Stack mode bit, PSW[7]. -/
  sm : Bool
  /-- Interrupt enable bit, PSW[6]. -/
  ie : Bool
  /-- Condition bit, PSW[0]. -/
  c : Bool
deriving DecidableEq, Repr

/-- The rounding modes of FPSR.RM: 00, 01, 10, 11 (R54). -/
inductive RoundingMode where
  | nearest
  | towardZero
  | towardPlusInf
  | towardMinusInf
deriving DecidableEq, Repr

/-- The stored fields of the FPSR (R48). FS is computed on read (R50); the other bits have no storage. -/
structure Fpsr where
  /-- Inexact flag, FPSR[30]. -/
  fx : Bool
  /-- Underflow flag, FPSR[29]. -/
  fu : Bool
  /-- Zero divide flag, FPSR[28]. -/
  fz : Bool
  /-- Overflow flag, FPSR[27]. -/
  fo : Bool
  /-- Invalid operation flag, FPSR[26]. -/
  fv : Bool
  /-- Inexact enable, FPSR[14]. -/
  ex : Bool
  /-- Underflow enable, FPSR[13]. -/
  eu : Bool
  /-- Zero divide enable, FPSR[12]. -/
  ez : Bool
  /-- Overflow enable, FPSR[11]. -/
  eo : Bool
  /-- Invalid operation enable, FPSR[10]. -/
  ev : Bool
  /-- Denormalized numbers are taken as zero, FPSR[8]. -/
  dn : Bool
  /-- Unimplemented cause, FPSR[7]. -/
  ce : Bool
  /-- Inexact cause, FPSR[6]. -/
  cx : Bool
  /-- Underflow cause, FPSR[5]. -/
  cu : Bool
  /-- Zero divide cause, FPSR[4]. -/
  cz : Bool
  /-- Overflow cause, FPSR[3]. -/
  co : Bool
  /-- Invalid operation cause, FPSR[2]. -/
  cv : Bool
  /-- Rounding mode, FPSR[1:0]. -/
  rm : RoundingMode
deriving DecidableEq, Repr

/-- Memory: the bytes that differ from what an unlisted address reads as, by rising address (R90). The
canonical form is `Memory.wf` of Machine/Memory.lean. -/
structure Memory where
  cells : List Host.Cell
deriving DecidableEq, Repr

/-- What the outside world asserts at an instruction boundary (R520, R560). -/
inductive BoundaryInput where
  /-- Nothing. -/
  | quiet
  /-- EXT_INT, the external interrupt request. -/
  | interrupt
  /-- The reset input. -/
  | reset
deriving DecidableEq, Repr

/-- The architectural state (R30), then the model's own fields. -/
structure State where
  /-- R0 to R14 (R31). -/
  gprs : Vector Word 15
  /-- SPI, CR2: R15 while SM = 0 (R33, R45). -/
  spi : Word
  /-- SPU, CR3: R15 while SM = 1 (R33, R45). -/
  spu : Word
  /-- PSW, CR0 (R39). -/
  psw : Psw
  /-- FPSR, CR7 (R48). -/
  fpsr : Fpsr
  /-- BPC, CR6; bit [0] is fixed 0 (R46). -/
  bpc : Word
  /-- The stored 56 bits of the accumulator (R60). -/
  acc : BitVec 56
  /-- The program counter; bit [0] is always 0 (R65). -/
  pc : Word
  /-- The LOCK bit (R70). -/
  lock : Bool
  /-- Memory (R75, R90). -/
  mem : Memory
  /-- MODEL: the parameter EIT_VECTOR (R514, log 2). -/
  vectors : Vectors
  /-- MODEL: the parameter MEM_MAP; an address in no region is ordinary memory (R9, R110, log 22). -/
  memMap : List Region
  /-- MODEL: the state of the devices that MEM_MAP names, as one number (R96, R97, log 47). -/
  device : Nat
  /-- MODEL: the inputs at the coming instruction boundaries, the next one first; past the end nothing
  is asserted (R520, R560, log 8). -/
  inputs : List BoundaryInput
  /-- MODEL: the number of the next draw of free values (log 40). -/
  drawIndex : Nat
deriving DecidableEq, Repr

/-- FPSR at reset: H'0000 0100 (R56). -/
def resetFpsr : Fpsr :=
  { fx := false, fu := false, fz := false, fo := false, fv := false
    ex := false, eu := false, ez := false, eo := false, ev := false
    dn := true
    ce := false, cx := false, cu := false, cz := false, co := false, cv := false
    rm := .nearest }

/-- The machine at reset release (R80, R561). PSW.SM, IE, C, FPSR, PC and LOCK are the spec's values;
every register the spec calls undefined is 0 (DESIGN CHOICE, unsafe, log 33); no byte of memory is
listed (log 34); MEM_MAP is its default, all RAM (log 22); the model's own fields are logs 2, 8, 22, 40
and 47. -/
def State.reset : State :=
  { gprs := Vector.replicate 15 0
    spi := 0
    spu := 0
    psw := { bsm := false, bie := false, bc := false, sm := false, ie := false, c := false }
    fpsr := resetFpsr
    bpc := 0
    acc := 0
    pc := 0
    lock := false
    mem := { cells := [] }
    vectors := familyVectors
    memMap := []
    device := 0
    inputs := []
    drawIndex := 0 }

end Sys2Proof.Machine
end

