-- ==== Sys2Proof/Machine/Memory.lean ====
section
/-! DEFINITION. Memory operations (spec/20_memory.md): the canonical form, reading and writing a byte,
and the halfword and word accesses built from bytes in big-endian order (R92, R96, R97, log 1). -/

namespace Sys2Proof.Machine

/-- What an address that nothing has written reads as. DESIGN CHOICE, unsafe: the spec leaves the
contents at reset to the host's image (R80, R561, log 34). -/
def unlistedByte : Byte := 0

/-- The cells rise strictly from `lo` on, stay in the address space, and list no byte that an unlisted
address reads as. -/
def cellsWf (lo : Nat) : List Host.Cell → Bool
  | [] => true
  | (a, b) :: rest => decide (lo ≤ a) && decide (a < 2 ^ 32) && b != unlistedByte && cellsWf (a + 1) rest

/-- Memory is in canonical form. -/
def Memory.wf (m : Memory) : Bool := cellsWf 0 m.cells

/-- The byte that a list of cells gives at an address. -/
def cellsRead (a : Nat) : List Host.Cell → Byte
  | [] => unlistedByte
  | (k, b) :: rest => if k = a then b else cellsRead a rest

/-- The cells after a byte is written; writing what an unlisted address reads as removes the entry. -/
def cellsWrite (a : Nat) (v : Byte) : List Host.Cell → List Host.Cell
  | [] => if v = unlistedByte then [] else [(a, v)]
  | (k, b) :: rest =>
    if k < a then (k, b) :: cellsWrite a v rest
    else
      let tail := if k = a then rest else (k, b) :: rest
      if v = unlistedByte then tail else (a, v) :: tail

/-- `MemRead(a, 1)` (R96). -/
def Memory.readByte (m : Memory) (a : Word) : Byte := cellsRead a.toNat m.cells

/-- `MemWrite(a, 1, v)` (R97). -/
def Memory.writeByte (m : Memory) (a : Word) (v : Byte) : Memory := { cells := cellsWrite a.toNat v m.cells }

/-- `MemRead(a, 2)` (R96): the byte at the lowest address is the most significant. -/
def Memory.readHalf (m : Memory) (a : Word) : Half := m.readByte a ++ m.readByte (a + 1)

/-- `MemRead(a, 4)` (R96). -/
def Memory.readWord (m : Memory) (a : Word) : Word :=
  m.readByte a ++ m.readByte (a + 1) ++ m.readByte (a + 2) ++ m.readByte (a + 3)

/-- `MemWrite(a, 2, v)` (R97). -/
def Memory.writeHalf (m : Memory) (a : Word) (v : Half) : Memory :=
  (m.writeByte a (v.extractLsb' 8 8)).writeByte (a + 1) (v.extractLsb' 0 8)

/-- `MemWrite(a, 4, v)` (R97). -/
def Memory.writeWord (m : Memory) (a : Word) (v : Word) : Memory :=
  (((m.writeByte a (v.extractLsb' 24 8)).writeByte (a + 1) (v.extractLsb' 16 8)).writeByte (a + 2)
    (v.extractLsb' 8 8)).writeByte (a + 3) (v.extractLsb' 0 8)

/-- Store bytes at consecutive addresses: how an image is put in place (log 42). -/
def Memory.writeBytes (m : Memory) (a : Word) : List Byte → Memory
  | [] => m
  | b :: rest => Memory.writeBytes (m.writeByte a b) (a + 1) rest

/-- A word address: ea[1:0] = 00 (R94). -/
def wordAligned (a : Word) : Bool := a.extractLsb' 0 2 = 0

/-- A halfword address: ea[0] = 0 (R94). -/
def halfAligned (a : Word) : Bool := a.extractLsb' 0 1 = 0

end Sys2Proof.Machine
end

