-- ==== Sys2Proof/Machine/Ops.lean ====
section
/-! DEFINITION. The named operations over registers: general registers with R15 banked by SM, the
control registers, the accumulator, the pc, and taking an exception and returning from one
(spec/10_state.md, spec/60_exceptions.md). -/

namespace Sys2Proof.Machine

/-- What running an instruction gives. -/
abbrev Result := Host.Outcome State Fault Refusal

/-- `R[n]`: R15 is SPU when SM is 1 and SPI when SM is 0 (R33). -/
def State.readReg (s : State) (r : Reg) : Word :=
  if h : r.val < 15 then s.gprs[r.val] else if s.psw.sm then s.spu else s.spi

/-- `R[n] <- v` (R33). -/
def State.writeReg (s : State) (r : Reg) (v : Word) : State :=
  if h : r.val < 15 then { s with gprs := s.gprs.set r.val v }
  else if s.psw.sm then { s with spu := v } else { s with spi := v }

/-- `pc <- pc + n`, modulo 2^32 (R66, R68). -/
def State.advance (s : State) (n : Word) : State := { s with pc := s.pc + n }

/-- `pc <- t`. -/
def State.goto (s : State) (t : Word) : State := { s with pc := t }

/-- `PSW.C <- c` (R43). -/
def State.setC (s : State) (c : Bool) : State := { s with psw := { s.psw with c := c } }

/-- The PSW as a word; its unassigned bits read 0 (R39, R41). -/
def pswWord (p : Psw) : Word :=
  (0 : BitVec 16) ++ BitVec.ofBool p.bsm ++ BitVec.ofBool p.bie ++ (0 : BitVec 5) ++ BitVec.ofBool p.bc ++
    BitVec.ofBool p.sm ++ BitVec.ofBool p.ie ++ (0 : BitVec 5) ++ BitVec.ofBool p.c

/-- The PSW that MVTC writes; the other bits of the word are ignored (R41, R236). -/
def pswOfWord (v : Word) : Psw :=
  { bsm := v.getLsbD 15, bie := v.getLsbD 14, bc := v.getLsbD 8
    sm := v.getLsbD 7, ie := v.getLsbD 6, c := v.getLsbD 0 }

/-- FPSR.RM as its two bits (R48). -/
def rmBits : RoundingMode → BitVec 2
  | .nearest => 0
  | .towardZero => 1
  | .towardPlusInf => 2
  | .towardMinusInf => 3

/-- The rounding mode that two bits select (R48). -/
def rmOfBits (x : BitVec 2) : RoundingMode :=
  match x.toNat with
  | 0 => .nearest
  | 1 => .towardZero
  | 2 => .towardPlusInf
  | _ => .towardMinusInf

/-- FPSR.FS, computed on read: FU, FZ, FO or FV, and not FX (R50). -/
def fpsrSummary (f : Fpsr) : Bool := f.fu || f.fz || f.fo || f.fv

/-- The FPSR as a word (R48, R55). -/
def fpsrWord (f : Fpsr) : Word :=
  BitVec.ofBool (fpsrSummary f) ++ BitVec.ofBool f.fx ++ BitVec.ofBool f.fu ++ BitVec.ofBool f.fz ++
    BitVec.ofBool f.fo ++ BitVec.ofBool f.fv ++ (0 : BitVec 11) ++ BitVec.ofBool f.ex ++ BitVec.ofBool f.eu ++
    BitVec.ofBool f.ez ++ BitVec.ofBool f.eo ++ BitVec.ofBool f.ev ++ (0 : BitVec 1) ++ BitVec.ofBool f.dn ++
    BitVec.ofBool f.ce ++ BitVec.ofBool f.cx ++ BitVec.ofBool f.cu ++ BitVec.ofBool f.cz ++
    BitVec.ofBool f.co ++ BitVec.ofBool f.cv ++ rmBits f.rm

/-- The FPSR after MVTC: flags, enables, DN and RM are written, a cause bit is cleared by 0 and kept by
1, everything else is ignored (R53, R55). -/
def fpsrAfterWrite (f : Fpsr) (v : Word) : Fpsr :=
  { fx := v.getLsbD 30, fu := v.getLsbD 29, fz := v.getLsbD 28, fo := v.getLsbD 27, fv := v.getLsbD 26
    ex := v.getLsbD 14, eu := v.getLsbD 13, ez := v.getLsbD 12, eo := v.getLsbD 11, ev := v.getLsbD 10
    dn := v.getLsbD 8
    ce := f.ce && v.getLsbD 7, cx := f.cx && v.getLsbD 6, cu := f.cu && v.getLsbD 5
    cz := f.cz && v.getLsbD 4, co := f.co && v.getLsbD 3, cv := f.cv && v.getLsbD 2
    rm := rmOfBits (v.extractLsb' 0 2) }

/-- The CBR as a word: the C bit in b31, zeros elsewhere (R44). -/
def cbrWord (p : Psw) : Word := (0 : BitVec 31) ++ BitVec.ofBool p.c

/-- BPC's fixed bit: bit [0] is always 0 (R46). -/
def clearBit0 (v : Word) : Word := v &&& 0xFFFFFFFE

/-- The two low-order bits cleared: the word that holds an address (R321, R352). -/
def wordBase (v : Word) : Word := v &&& 0xFFFFFFFC

/-- `CR[n]`; none where the number names no register (R38, R57, R235). -/
def State.readCr (s : State) (cr : CrNum) : Option Word :=
  match cr.val with
  | 0 => some (pswWord s.psw)
  | 1 => some (cbrWord s.psw)
  | 2 => some s.spi
  | 3 => some s.spu
  | 6 => some (clearBit0 s.bpc)
  | 7 => some (fpsrWord s.fpsr)
  | _ => none

/-- `CR[n] <- v`; none where the number names no register. A write to CBR is ignored (R44, R236). -/
def State.writeCr (s : State) (cr : CrNum) (v : Word) : Option State :=
  match cr.val with
  | 0 => some { s with psw := pswOfWord v }
  | 1 => some s
  | 2 => some { s with spi := v }
  | 3 => some { s with spu := v }
  | 6 => some { s with bpc := clearBit0 v }
  | 7 => some { s with fpsr := fpsrAfterWrite s.fpsr v }
  | _ => none

/-- ACC64: the accumulator read as 64 bits, its bit [55] extended (R60). -/
def State.acc64 (s : State) : BitVec 64 := s.acc.signExtend 64

/-- The accumulator as an integer: signed(ACC64) (R60, R376). -/
def State.accInt (s : State) : Int := s.acc.toInt

/-- `ACC <- trunc56(v)` (R60, R376). -/
def State.setAcc (s : State) (v : Int) : State := { s with acc := BitVec.ofInt 56 v }

/-- The events that divert control to a handler (R501); reset is not among them. -/
inductive EitEvent where
  /-- Address exception. -/
  | ae
  /-- Floating-point exception. -/
  | fpe
  /-- TRAP n. -/
  | trap (n : Fin 16)
  /-- External interrupt. -/
  | ei
deriving DecidableEq, Repr

/-- EIT_VECTOR(k), from the table that State holds; always word-aligned (R514). -/
def State.eitVector (s : State) : EitEvent → Word
  | .ae => s.vectors.ae ++ (0 : BitVec 2)
  | .fpe => s.vectors.fpe ++ (0 : BitVec 2)
  | .trap n => s.vectors.trap[n.val] ++ (0 : BitVec 2)
  | .ei => s.vectors.ei ++ (0 : BitVec 2)

/-- The PSW after EIT entry: SM, IE and C are saved, IE and C become 0, and SM becomes 0 for an external
interrupt only (R510, R511, R513). -/
def pswAfterEntry (k : EitEvent) (p : Psw) : Psw :=
  { bsm := p.sm, bie := p.ie, bc := p.c
    sm := if k = .ei then false else p.sm
    ie := false, c := false }

/-- EIT entry, the one common sequence: BPC and the backup bits saved, the PSW field changed, control at
the event's entry; nothing else changes (R510 to R516, logs 3, 12). -/
def State.eitEntry (s : State) (k : EitEvent) (savedPc : Word) : State :=
  { s with bpc := clearBit0 savedPc, psw := pswAfterEntry k s.psw, pc := s.eitVector k }

/-- `raise AE`: the saved pc is the faulting instruction's own, and nothing else of the instruction
happens (R224, R502, R512, logs 4, 7). -/
def State.raiseAe (s : State) : State := s.eitEntry .ae s.pc

/-- `raise FPE`: the saved pc is the next instruction's (R503, R512, log 4). -/
def State.raiseFpe (s : State) : State := s.eitEntry .fpe (s.pc + 4)

/-- Return from an EIT: SM, IE, C from the backup bits, pc from BPC with its two low-order bits cleared;
the backup bits and BPC[31:1] are then free values (R352, R525, log 32). -/
def State.eitReturn (s : State) : State :=
  { s with
    psw :=
      { bsm := Config.bsmAfterRte s.drawIndex, bie := Config.bieAfterRte s.drawIndex
        bc := Config.bcAfterRte s.drawIndex
        sm := s.psw.bsm, ie := s.psw.bie, c := s.psw.bc }
    bpc := Config.bpcAfterRte s.drawIndex ++ (0 : BitVec 1)
    pc := wordBase s.bpc }

end Sys2Proof.Machine
end

