-- ==== Sys2Proof/Machine/Bus.lean ====
section
/-! DEFINITION. `MemRead` and `MemWrite` on the state (spec/20_memory.md R96, R97): ordinary memory, or
what MEM_MAP says of an address that is not. The address of the access, its lowest, is the one looked up
(log 22). -/

namespace Sys2Proof.Machine

/-- What MEM_MAP says of an address (R90, R110). -/
def State.holding (s : State) (a : Word) : Holding := holdingIn s.memMap a

/-- The value of a read at `a` where memory stores `stored`: that value from RAM and ROM, the device's
answer, or with nothing mapped a free value (R96, logs 47, 48). -/
def State.readAs {w : Nat} (s : State) (a : Word) (n : Access) (stored : BitVec w) : BitVec w :=
  match s.holding a with
  | .ram => stored
  | .rom => stored
  | .device => (Config.deviceRead s.drawIndex s.device a n).setWidth w
  | .nothing => (Config.nothingRead s.drawIndex a n).setWidth w

/-- `MemRead(a, 1)` (R96). -/
def State.readByte (s : State) (a : Word) : Byte := s.readAs a .byte (s.mem.readByte a)

/-- `MemRead(a, 2)` (R96). -/
def State.readHalf (s : State) (a : Word) : Half := s.readAs a .half (s.mem.readHalf a)

/-- `MemRead(a, 4)` (R96). -/
def State.readWord (s : State) (a : Word) : Word := s.readAs a .word (s.mem.readWord a)

/-- The state after a read: only a device can change by it (R96, R103). -/
def State.afterRead (s : State) (a : Word) (n : Access) : State :=
  match s.holding a with
  | .device => { s with device := Config.deviceAfterRead s.drawIndex s.device a n }
  | .ram | .rom | .nothing => s

/-- The state after a write of `v` at `a` that makes ordinary memory `m`: a device takes the write, and
ROM and an address with nothing mapped ignore it (R97, logs 46 to 48). -/
def State.writeAs (s : State) (a : Word) (n : Access) (v : Word) (m : Memory) : State :=
  match s.holding a with
  | .ram => { s with mem := m }
  | .device => { s with device := Config.deviceAfterWrite s.drawIndex s.device a n v }
  | .rom | .nothing => s

/-- `MemWrite(ea, 4, v)` (R97). -/
def State.storeWord (s : State) (ea v : Word) : State := s.writeAs ea .word v (s.mem.writeWord ea v)

/-- `MemWrite(ea, 2, v)` (R97). -/
def State.storeHalf (s : State) (ea : Word) (v : Half) : State :=
  s.writeAs ea .half (v.setWidth 32) (s.mem.writeHalf ea v)

/-- `MemWrite(ea, 1, v)` (R97). -/
def State.storeByte (s : State) (ea : Word) (v : Byte) : State :=
  s.writeAs ea .byte (v.setWidth 32) (s.mem.writeByte ea v)

end Sys2Proof.Machine
end

