-- ==== Sys2Proof/Machine/Boundary.lean ====
section
/-! DEFINITION. What happens at an instruction boundary: the inputs from outside (spec/60_exceptions.md
R520 to R522, spec/70_reset_and_hazards.md R560), and the fetch (spec/30_encoding.md R131). -/

namespace Sys2Proof.Machine

/-- What is asserted at the coming boundary; past the end of the list, nothing (log 8). -/
def State.input (s : State) : BoundaryInput :=
  match s.inputs with
  | [] => .quiet
  | i :: _ => i

/-- The boundary is passed: its input is consumed and the next draw number is taken (logs 8, 40). -/
def State.tick (s : State) : State := { s with inputs := s.inputs.tail, drawIndex := s.drawIndex + 1 }

/-- Reset during a run: the CPU state is the reset state; memory, the devices, the two parameter tables and
the inputs still to come are not touched (R560, R561, log 30). -/
def State.hostReset (s : State) : State :=
  { State.reset with
    mem := s.mem, vectors := s.vectors, memMap := s.memMap, device := s.device
    inputs := s.inputs.tail, drawIndex := s.drawIndex + 1 }

/-- An external interrupt is accepted: requested, IE = 1, and the pc at a word boundary (R521, log 9). -/
def State.acceptsInterrupt (s : State) : Bool :=
  s.input = .interrupt && s.psw.ie && wordAligned s.pc

/-- The external interrupt is taken: its entry saves the address of the instruction that would have
executed next (R512, R521). The entry is a step of its own (log 9). -/
def State.takeInterrupt (s : State) : State := s.tick.eitEntry .ei s.pc

/-- The half of its word that an address names (R131). -/
def slotOf (a : Word) : Slot := if wordAligned a then .high else .low

/-- The word that a fetch reads: the word that holds the pc, by one transfer at that word's address (R96,
R100). Fetch reads current memory (R117, log 11). -/
def State.fetchedWord (s : State) : Word :=
  s.readAs (wordBase s.pc) .fetch (s.mem.readWord (wordBase s.pc))

/-- The bytes fetched at the pc: the whole word at a word boundary, else its low-order halfword, which
from memory is R131's `MemRead(pc, 2)` (log 49). -/
def State.fetchBytes (s : State) : List Byte :=
  if wordAligned s.pc then bytesOfWord s.fetchedWord else bytesOfHalf (s.fetchedWord.extractLsb' 0 16)

/-- Fetch and decode the instruction at the pc (R131). -/
def State.fetch (s : State) : Decoded :=
  match decodeBytes (slotOf s.pc) s.fetchBytes with
  | .ok (i, _) => .ok i
  | .error e => .error e

/-- The state after that read (R96). -/
def State.afterFetch (s : State) : State := s.afterRead (wordBase s.pc) .fetch

/-- The name under which a step refuses what does not decode. A fetch is never short of bytes. -/
def refusalOf : DecodeError → Refusal
  | .undefinedInstruction => .undefinedInstruction
  | .parallelSlot => .parallelSlot
  | .unassignedControlRegister => .unassignedControlRegister
  | .truncated => .undefinedInstruction

/-- Where an instruction of the opcode table is put to be fetched next: a word for a 32-bit one, the
halfword at the pc for a 16-bit one (R130). -/
def placeAddress (pc : Word) (nbits : Nat) : Word := if nbits ≤ 16 then clearBit0 pc else wordBase pc

/-- The bytes put there: the longest instruction's length, but no further than the word (log 42). -/
def placeBytes (a : Word) (nbits w : Nat) : List Byte :=
  if wordAligned a then tableBytes nbits w else (tableBytes nbits w).take 2

/-- A map that lets the word that holds the address be fetched from memory: the map itself where it does,
else with that word made RAM (log 42). -/
def fetchableMap (m : List Region) (a : Word) : List Region :=
  if (holdingIn m (wordBase a)).stored then m
  else { first := wordBase a, last := wordBase a ||| 3, holds := .ram } :: m

/-- The inputs with nothing asserted at the coming boundary. -/
def quietNext : List BoundaryInput → List BoundaryInput
  | [] => []
  | _ :: rest => .quiet :: rest

end Sys2Proof.Machine
end

