-- ==== Sys2Proof/Machine/Operands.lean ====
section
/-! DEFINITION. Operand forms: effective addresses (spec/40_load_store.md R200), immediates and
displacements with their extension (spec/30_encoding.md R142), shift counts (R145), branch targets
(spec/44_branch.md R321), bit positions (spec/49_bit_operations.md R480) and halves of a register
(spec/46_dsp.md R376). -/

namespace Sys2Proof.Machine

/-- `sext_8`, `sext_16`, `sext_24` to 32 bits (R13, R142). -/
def sext {n : Nat} (x : BitVec n) : Word := x.signExtend 32

/-- `zext_8`, `zext_16`, `zext_24` to 32 bits (R13, R142). -/
def zext {n : Nat} (x : BitVec n) : Word := x.setWidth 32

/-- SETH's immediate: the upper 16 bits, zeros below (R142, R237). -/
def upperImm (x : Half) : Word := x ++ (0 : BitVec 16)

/-- `@R`, and `@R+` before its update (R200). -/
def State.eaInd (s : State) (r : Reg) : Word := s.readReg r

/-- `@(disp16,R)`: the displacement is sign-extended and counts bytes; modulo 2^32 (R98, R200). -/
def State.eaDisp (s : State) (r : Reg) (disp : BitVec 16) : Word := s.readReg r + sext disp

/-- `@+R`: 4 is added before the access (R200). -/
def State.eaPreInc (s : State) (r : Reg) : Word := s.readReg r + 4

/-- `@-R`: 4 is subtracted before the access (R200). -/
def State.eaPreDec (s : State) (r : Reg) : Word := s.readReg r - 4

/-- A shift count in a register: its five low-order bits (R145). -/
def regCount (v : Word) : Nat := (v.extractLsb' 0 5).toNat

/-- A shift count in a 16-bit immediate: its five low-order bits (R145). -/
def immCount (x : BitVec 16) : Nat := (x.extractLsb' 0 5).toNat

/-- The target of a pc-relative branch: the word that holds the branch plus four times the
sign-extended displacement, modulo 2^32 (R321). -/
def State.branchTarget {n : Nat} (s : State) (disp : BitVec n) : Word := wordBase s.pc + (sext disp <<< 2)

/-- The link value of BL and JL: the word after the one that holds the instruction (R321). -/
def State.linkValue (s : State) : Word := wordBase s.pc + 4

/-- `1 << (7 - bitpos)` in a byte: position 0 is the most significant bit (R480). -/
def bitMask (t : BitVec 3) : Byte := (1 : Byte) <<< (7 - t.toNat)

/-- `hi16(x)`, the signed high-order halfword (R376). -/
def hi16 (x : Word) : Int := (x.extractLsb' 16 16).toInt

/-- `lo16(x)`, the signed low-order halfword (R376). -/
def lo16 (x : Word) : Int := (x.extractLsb' 0 16).toInt

/-- `s32(x)`, the signed word (R376). -/
def s32 (x : Word) : Int := x.toInt

end Sys2Proof.Machine
end

