-- ==== Sys2Proof/Machine/Flags.lean ====
section
/-! DEFINITION. Every computation of the condition bit C (spec/10_state.md R43), from the exact integer
result, and the PSW changes of SETPSW and CLRPSW (spec/49_bit_operations.md). -/

namespace Sys2Proof.Machine

/-- Signed less-than (R251, R252). -/
def signedLess (a b : Word) : Bool := decide (a.toInt < b.toInt)

/-- Unsigned less-than (R253, R254). -/
def unsignedLess (a b : Word) : Bool := decide (a.toNat < b.toNat)

/-- An exact signed result lies outside -2^31 .. 2^31-1 (R258, R263). -/
def outsideSigned32 (x : Int) : Bool := decide (x < -2 ^ 31 ∨ 2 ^ 31 - 1 < x)

/-- Signed overflow of an addition (R258, R259). -/
def addOverflow (a b : Word) : Bool := outsideSigned32 (a.toInt + b.toInt)

/-- Signed overflow of a subtraction (R263). -/
def subOverflow (a b : Word) : Bool := outsideSigned32 (a.toInt - b.toInt)

/-- The exact unsigned sum with the carry in (R260). -/
def carrySum (a b : Word) (c : Bool) : Nat := a.toNat + b.toNat + c.toNat

/-- Carry out of an addition with carry (R260). -/
def carryOut (a b : Word) (c : Bool) : Bool := decide (2 ^ 32 ≤ carrySum a b c)

/-- The exact unsigned difference with the borrow in; it may be negative (R264). -/
def borrowDiff (a b : Word) (c : Bool) : Int := (a.toNat : Int) - b.toNat - c.toNat

/-- Borrow out of a subtraction with borrow (R264). -/
def borrowOut (a b : Word) (c : Bool) : Bool := decide (borrowDiff a b c < 0)

/-- The bit that BTST puts in C: position 0 is bit [7] (R483). -/
def testedBit (t : BitVec 3) (v : Word) : Bool := v.getLsbD (7 - t.toNat)

/-- SETPSW: each 1 among immediate bits [7], [6], [0] sets SM, IE, C; the rest have no effect (R484, log 28). -/
def pswAfterSet (p : Psw) (imm : BitVec 8) : Psw :=
  { p with sm := p.sm || imm.getLsbD 7, ie := p.ie || imm.getLsbD 6, c := p.c || imm.getLsbD 0 }

/-- CLRPSW: each 1 among immediate bits [7], [6], [0] clears SM, IE, C; the rest have no effect (R485, log 28). -/
def pswAfterClear (p : Psw) (imm : BitVec 8) : Psw :=
  { p with sm := p.sm && !imm.getLsbD 7, ie := p.ie && !imm.getLsbD 6, c := p.c && !imm.getLsbD 0 }

end Sys2Proof.Machine
end

