-- ==== Sys2Proof/Machine/Transfer.lean ====
section
/-! DEFINITION. The transfer instructions (spec/41_transfer.md R230 to R238): LD24, LDI, MV, MVFC, MVTC,
SETH. -/

namespace Sys2Proof.Machine

/-- Write one register and go to the next instruction: the whole effect of most operations. -/
def writeNext (s : State) (d : Reg) (v len : Word) : Result := .next ((s.writeReg d v).advance len)

/-- LD24 Rdest,#imm24 (R231): zero-extended. -/
def execLd24 (d : Reg) (imm : BitVec 24) (s : State) : Result := writeNext s d (zext imm) 4

/-- LDI Rdest,#imm8 (R232): sign-extended. -/
def execLdi8 (d : Reg) (imm : BitVec 8) (s : State) : Result := writeNext s d (sext imm) 2

/-- LDI Rdest,#imm16 (R233): sign-extended. -/
def execLdi16 (d : Reg) (imm : BitVec 16) (s : State) : Result := writeNext s d (sext imm) 4

/-- MV Rdest,Rsrc (R234). -/
def execMv (d src : Reg) (s : State) : Result := writeNext s d (s.readReg src) 2

/-- MVFC Rdest,CRsrc (R235); a number that names no control register is refused (R57, log 14). -/
def execMvfc (d : Reg) (cr : CrNum) (s : State) : Result :=
  match s.readCr cr with
  | some v => writeNext s d v 2
  | none => .refused .unassignedControlRegister

/-- MVTC Rsrc,CRdest (R236): the source is read under the old SM. A number that names no control
register is refused (R57, log 14). -/
def execMvtc (src : Reg) (cr : CrNum) (s : State) : Result :=
  match s.writeCr cr (s.readReg src) with
  | some t => .next (t.advance 2)
  | none => .refused .unassignedControlRegister

/-- SETH Rdest,#imm16 (R237). -/
def execSeth (d : Reg) (imm : BitVec 16) (s : State) : Result := writeNext s d (upperImm imm) 4

end Sys2Proof.Machine
end

