-- ==== Sys2Proof/Machine/Arith.lean ====
section
/-! DEFINITION. The compare, arithmetic and logic instructions (spec/42_compare_arith_logic.md R250 to
R272). All arithmetic wraps modulo 2^32 and none traps (R250). -/

namespace Sys2Proof.Machine

/-- Write C and go to the next instruction: a compare. -/
def flagNext (s : State) (c : Bool) (len : Word) : Result := .next ((s.setC c).advance len)

/-- Write one register and C and go to the next instruction. -/
def writeFlagNext (s : State) (d : Reg) (v : Word) (c : Bool) (len : Word) : Result :=
  .next (((s.writeReg d v).setC c).advance len)

/-- CMP Rsrc1,Rsrc2 (R251). -/
def execCmp (a b : Reg) (s : State) : Result := flagNext s (signedLess (s.readReg a) (s.readReg b)) 2

/-- CMPI Rsrc,#imm16 (R252): the immediate is sign-extended. -/
def execCmpi (src : Reg) (imm : BitVec 16) (s : State) : Result :=
  flagNext s (signedLess (s.readReg src) (sext imm)) 4

/-- CMPU Rsrc1,Rsrc2 (R253). -/
def execCmpu (a b : Reg) (s : State) : Result := flagNext s (unsignedLess (s.readReg a) (s.readReg b)) 2

/-- CMPUI Rsrc,#imm16 (R254): the immediate is sign-extended, then compared unsigned. -/
def execCmpui (src : Reg) (imm : BitVec 16) (s : State) : Result :=
  flagNext s (unsignedLess (s.readReg src) (sext imm)) 4

/-- ADD Rdest,Rsrc (R255). -/
def execAdd (d src : Reg) (s : State) : Result := writeNext s d (s.readReg d + s.readReg src) 2

/-- ADD3 Rdest,Rsrc,#imm16 (R256): sign-extended. -/
def execAdd3 (d src : Reg) (imm : BitVec 16) (s : State) : Result :=
  writeNext s d (s.readReg src + sext imm) 4

/-- ADDI Rdest,#imm8 (R257): sign-extended. -/
def execAddi (d : Reg) (imm : BitVec 8) (s : State) : Result := writeNext s d (s.readReg d + sext imm) 2

/-- ADDV Rdest,Rsrc (R258): C is signed overflow. -/
def execAddv (d src : Reg) (s : State) : Result :=
  writeFlagNext s d (s.readReg d + s.readReg src) (addOverflow (s.readReg d) (s.readReg src)) 2

/-- ADDV3 Rdest,Rsrc,#imm16 (R259): C is signed overflow. -/
def execAddv3 (d src : Reg) (imm : BitVec 16) (s : State) : Result :=
  writeFlagNext s d (s.readReg src + sext imm) (addOverflow (s.readReg src) (sext imm)) 4

/-- ADDX Rdest,Rsrc (R260): C is the carry in and the carry out. -/
def execAddx (d src : Reg) (s : State) : Result :=
  writeFlagNext s d (BitVec.ofNat 32 (carrySum (s.readReg d) (s.readReg src) s.psw.c))
    (carryOut (s.readReg d) (s.readReg src) s.psw.c) 2

/-- NEG Rdest,Rsrc (R261). -/
def execNeg (d src : Reg) (s : State) : Result := writeNext s d (0 - s.readReg src) 2

/-- SUB Rdest,Rsrc (R262). -/
def execSub (d src : Reg) (s : State) : Result := writeNext s d (s.readReg d - s.readReg src) 2

/-- SUBV Rdest,Rsrc (R263): C is signed overflow. -/
def execSubv (d src : Reg) (s : State) : Result :=
  writeFlagNext s d (s.readReg d - s.readReg src) (subOverflow (s.readReg d) (s.readReg src)) 2

/-- SUBX Rdest,Rsrc (R264): C is the borrow in and the borrow out. -/
def execSubx (d src : Reg) (s : State) : Result :=
  writeFlagNext s d (BitVec.ofInt 32 (borrowDiff (s.readReg d) (s.readReg src) s.psw.c))
    (borrowOut (s.readReg d) (s.readReg src) s.psw.c) 2

/-- AND Rdest,Rsrc (R265). -/
def execAnd (d src : Reg) (s : State) : Result := writeNext s d (s.readReg d &&& s.readReg src) 2

/-- AND3 Rdest,Rsrc,#imm16 (R266): zero-extended. -/
def execAnd3 (d src : Reg) (imm : BitVec 16) (s : State) : Result :=
  writeNext s d (s.readReg src &&& zext imm) 4

/-- NOT Rdest,Rsrc (R267). -/
def execNot (d src : Reg) (s : State) : Result := writeNext s d (~~~ s.readReg src) 2

/-- OR Rdest,Rsrc (R268). -/
def execOr (d src : Reg) (s : State) : Result := writeNext s d (s.readReg d ||| s.readReg src) 2

/-- OR3 Rdest,Rsrc,#imm16 (R269): zero-extended. -/
def execOr3 (d src : Reg) (imm : BitVec 16) (s : State) : Result :=
  writeNext s d (s.readReg src ||| zext imm) 4

/-- XOR Rdest,Rsrc (R270). -/
def execXor (d src : Reg) (s : State) : Result := writeNext s d (s.readReg d ^^^ s.readReg src) 2

/-- XOR3 Rdest,Rsrc,#imm16 (R271): zero-extended. -/
def execXor3 (d src : Reg) (imm : BitVec 16) (s : State) : Result :=
  writeNext s d (s.readReg src ^^^ zext imm) 4

end Sys2Proof.Machine
end

