-- ==== Sys2Proof/Machine/LoadStore.lean ====
section
/-! DEFINITION. The load and store instructions (spec/40_load_store.md R200 to R225): LD, LDB, LDUB, LDH,
LDUH, LOCK, ST, STB, STH, UNLOCK. The effective address is computed first, then checked for alignment,
then the access is made, then registers are written; a failed check raises AE and does nothing else
(R224). -/

namespace Sys2Proof.Machine

/-- Run when a word address is aligned, else raise the address exception (R94, R224). -/
def onWordAddress (s : State) (ea : Word) (t : State) : Result :=
  if wordAligned ea then .next t else .next s.raiseAe

/-- Run when a halfword address is aligned, else raise the address exception (R94, R224). -/
def onHalfAddress (s : State) (ea : Word) (t : State) : Result :=
  if halfAligned ea then .next t else .next s.raiseAe

/-- Load a word at `ea` into `d`, by an instruction of `len` bytes. -/
def loadWord (s : State) (d : Reg) (ea len : Word) : Result :=
  onWordAddress s ea (((s.afterRead ea .word).writeReg d (s.readWord ea)).advance len)

/-- Load the halfword at `ea`, extended by `ext`, into `d`. -/
def loadHalf (s : State) (ext : Half → Word) (d : Reg) (ea len : Word) : Result :=
  onHalfAddress s ea (((s.afterRead ea .half).writeReg d (ext (s.readHalf ea))).advance len)

/-- Load the byte at `ea`, extended by `ext`, into `d`; no address is misaligned (R94). -/
def loadByte (s : State) (ext : Byte → Word) (d : Reg) (ea len : Word) : Result :=
  .next (((s.afterRead ea .byte).writeReg d (ext (s.readByte ea))).advance len)

/-- `LOCK <- b` (R70). -/
def State.setLock (s : State) (b : Bool) : State := { s with lock := b }

/-- The low-order halfword of a register, which STH stores (R91). -/
def lowHalfOf (v : Word) : Half := v.extractLsb' 0 16

/-- The low-order byte of a register, which STB stores (R91). -/
def lowByteOf (v : Word) : Byte := v.extractLsb' 0 8

/-- LD Rdest,@Rsrc (R201). -/
def execLdInd (d src : Reg) (s : State) : Result := loadWord s d (s.eaInd src) 2

/-- What `LD Rdest,@Rsrc+` leaves in Rdest: the loaded word, or a free value when Rdest is the updated
register (R202, R223, log 35). -/
def postIncLoaded (s : State) (d src : Reg) : Word :=
  if d = src then Config.loadOverUpdatedBase s.drawIndex else s.readWord (s.eaInd src)

/-- LD Rdest,@Rsrc+ (R202): the base is incremented by 4 after the access. -/
def execLdPostInc (d src : Reg) (s : State) : Result :=
  onWordAddress s (s.eaInd src)
    ((((s.afterRead (s.eaInd src) .word).writeReg src (s.eaInd src + 4)).writeReg d
      (postIncLoaded s d src)).advance 2)

/-- LD Rdest,@(disp16,Rsrc) (R203). -/
def execLdDisp (d : Reg) (disp : BitVec 16) (src : Reg) (s : State) : Result :=
  loadWord s d (s.eaDisp src disp) 4

/-- LDB Rdest,@Rsrc (R204). -/
def execLdbInd (d src : Reg) (s : State) : Result := loadByte s sext d (s.eaInd src) 2

/-- LDB Rdest,@(disp16,Rsrc) (R205). -/
def execLdbDisp (d : Reg) (disp : BitVec 16) (src : Reg) (s : State) : Result :=
  loadByte s sext d (s.eaDisp src disp) 4

/-- LDUB Rdest,@Rsrc (R206). -/
def execLdubInd (d src : Reg) (s : State) : Result := loadByte s zext d (s.eaInd src) 2

/-- LDUB Rdest,@(disp16,Rsrc) (R207). -/
def execLdubDisp (d : Reg) (disp : BitVec 16) (src : Reg) (s : State) : Result :=
  loadByte s zext d (s.eaDisp src disp) 4

/-- LDH Rdest,@Rsrc (R208). -/
def execLdhInd (d src : Reg) (s : State) : Result := loadHalf s sext d (s.eaInd src) 2

/-- LDH Rdest,@(disp16,Rsrc) (R209). -/
def execLdhDisp (d : Reg) (disp : BitVec 16) (src : Reg) (s : State) : Result :=
  loadHalf s sext d (s.eaDisp src disp) 4

/-- LDUH Rdest,@Rsrc (R210). -/
def execLduhInd (d src : Reg) (s : State) : Result := loadHalf s zext d (s.eaInd src) 2

/-- LDUH Rdest,@(disp16,Rsrc) (R211). -/
def execLduhDisp (d : Reg) (disp : BitVec 16) (src : Reg) (s : State) : Result :=
  loadHalf s zext d (s.eaDisp src disp) 4

/-- LOCK Rdest,@Rsrc (R212): a load that sets the LOCK bit. -/
def execLock (d src : Reg) (s : State) : Result :=
  onWordAddress s (s.eaInd src)
    ((((s.afterRead (s.eaInd src) .word).setLock true).writeReg d (s.readWord (s.eaInd src))).advance 2)

/-- ST Rsrc1,@Rsrc2 (R213). -/
def execStInd (a b : Reg) (s : State) : Result :=
  onWordAddress s (s.eaInd b) ((s.storeWord (s.eaInd b) (s.readReg a)).advance 2)

/-- The word that `ST Rsrc1,@+Rsrc2` stores; with one register for both, it is the old or the updated
one by a free choice (R214, R223, log 36). -/
def preIncStored (s : State) (a b : Reg) : Word :=
  if a = b ∧ Config.preIncStoresUpdated s.drawIndex then s.eaPreInc b else s.readReg a

/-- ST Rsrc1,@+Rsrc2 (R214): the base is incremented by 4 before the access. -/
def execStPreInc (a b : Reg) (s : State) : Result :=
  onWordAddress s (s.eaPreInc b)
    (((s.storeWord (s.eaPreInc b) (preIncStored s a b)).writeReg b (s.eaPreInc b)).advance 2)

/-- The word that `ST Rsrc1,@-Rsrc2` stores, by a free choice as for the increment (R215, R223, log 36). -/
def preDecStored (s : State) (a b : Reg) : Word :=
  if a = b ∧ Config.preDecStoresUpdated s.drawIndex then s.eaPreDec b else s.readReg a

/-- ST Rsrc1,@-Rsrc2 (R215): the base is decremented by 4 before the access. -/
def execStPreDec (a b : Reg) (s : State) : Result :=
  onWordAddress s (s.eaPreDec b)
    (((s.storeWord (s.eaPreDec b) (preDecStored s a b)).writeReg b (s.eaPreDec b)).advance 2)

/-- ST Rsrc1,@(disp16,Rsrc2) (R216). -/
def execStDisp (a : Reg) (disp : BitVec 16) (b : Reg) (s : State) : Result :=
  onWordAddress s (s.eaDisp b disp) ((s.storeWord (s.eaDisp b disp) (s.readReg a)).advance 4)

/-- STB Rsrc1,@Rsrc2 (R217). -/
def execStbInd (a b : Reg) (s : State) : Result :=
  .next ((s.storeByte (s.eaInd b) (lowByteOf (s.readReg a))).advance 2)

/-- STB Rsrc1,@(disp16,Rsrc2) (R218). -/
def execStbDisp (a : Reg) (disp : BitVec 16) (b : Reg) (s : State) : Result :=
  .next ((s.storeByte (s.eaDisp b disp) (lowByteOf (s.readReg a))).advance 4)

/-- STH Rsrc1,@Rsrc2 (R219). -/
def execSthInd (a b : Reg) (s : State) : Result :=
  onHalfAddress s (s.eaInd b) ((s.storeHalf (s.eaInd b) (lowHalfOf (s.readReg a))).advance 2)

/-- STH Rsrc1,@Rsrc2+ (R220): the base is incremented by 2 after the access. -/
def execSthPostInc (a b : Reg) (s : State) : Result :=
  onHalfAddress s (s.eaInd b)
    (((s.storeHalf (s.eaInd b) (lowHalfOf (s.readReg a))).writeReg b (s.eaInd b + 2)).advance 2)

/-- STH Rsrc1,@(disp16,Rsrc2) (R221). -/
def execSthDisp (a : Reg) (disp : BitVec 16) (b : Reg) (s : State) : Result :=
  onHalfAddress s (s.eaDisp b disp) ((s.storeHalf (s.eaDisp b disp) (lowHalfOf (s.readReg a))).advance 4)

/-- UNLOCK Rsrc1,@Rsrc2 (R222): it stores only when the LOCK bit is 1, and clears the bit. A misaligned
address raises AE when the bit is 1, and is refused when it is 0 (log 20). -/
def execUnlock (a b : Reg) (s : State) : Result :=
  if s.lock then
    onWordAddress s (s.eaInd b)
      (((s.storeWord (s.eaInd b) (s.readReg a)).setLock false).advance 2)
  else if wordAligned (s.eaInd b) then .next ((s.setLock false).advance 2)
  else .refused .unlockMisaligned

end Sys2Proof.Machine
end

