-- ==== Sys2Proof/Machine/BitOps.lean ====
section
/-! DEFINITION. The bit operation instructions (spec/49_bit_operations.md R480 to R486). -/

namespace Sys2Proof.Machine

/-- The indivisible read-modify-write of one byte by BSET and BCLR; the LOCK bit is 0 afterwards
whatever it was (R481, R482). -/
def modifyByte (s : State) (ea : Word) (f : Byte → Byte) : Result :=
  .next ((((s.afterRead ea .byte).storeByte ea (f (s.readByte ea))).setLock false).advance 4)

/-- BSET #bitpos,@(disp16,Rsrc) (R481). -/
def execBset (t : BitVec 3) (disp : BitVec 16) (src : Reg) (s : State) : Result :=
  modifyByte s (s.eaDisp src disp) (fun b => b ||| bitMask t)

/-- BCLR #bitpos,@(disp16,Rsrc) (R482). -/
def execBclr (t : BitVec 3) (disp : BitVec 16) (src : Reg) (s : State) : Result :=
  modifyByte s (s.eaDisp src disp) (fun b => b &&& ~~~ bitMask t)

/-- BTST #bitpos,Rsrc (R483). -/
def execBtst (t : BitVec 3) (src : Reg) (s : State) : Result := flagNext s (testedBit t (s.readReg src)) 2

/-- SETPSW #imm8 (R484). -/
def execSetpsw (imm : BitVec 8) (s : State) : Result :=
  .next ({ s with psw := pswAfterSet s.psw imm }.advance 2)

/-- CLRPSW #imm8 (R485). -/
def execClrpsw (imm : BitVec 8) (s : State) : Result :=
  .next ({ s with psw := pswAfterClear s.psw imm }.advance 2)

end Sys2Proof.Machine
end

