-- ==== Sys2Proof/Machine/Branch.lean ====
section
/-! DEFINITION. The branch instructions (spec/44_branch.md R320 to R342): no delay slot, no exception, C
unchanged; BL and JL write R14. -/

namespace Sys2Proof.Machine

/-- Branch when a condition holds, else go to the next instruction (R321). -/
def branchIf (s : State) (taken : Bool) (target len : Word) : Result :=
  .next (if taken then s.goto target else s.advance len)

/-- Put the link value in R14 and branch (R321, R324). -/
def branchLink (s : State) (target : Word) : Result := .next ((s.writeReg 14 s.linkValue).goto target)

/-- BC pcdisp8 (R322). -/
def execBc8 (disp : BitVec 8) (s : State) : Result := branchIf s s.psw.c (s.branchTarget disp) 2

/-- BC pcdisp24 (R323). -/
def execBc24 (disp : BitVec 24) (s : State) : Result := branchIf s s.psw.c (s.branchTarget disp) 4

/-- BL pcdisp8 (R324). -/
def execBl8 (disp : BitVec 8) (s : State) : Result := branchLink s (s.branchTarget disp)

/-- BL pcdisp24 (R325). -/
def execBl24 (disp : BitVec 24) (s : State) : Result := branchLink s (s.branchTarget disp)

/-- BNC pcdisp8 (R326). -/
def execBnc8 (disp : BitVec 8) (s : State) : Result := branchIf s (!s.psw.c) (s.branchTarget disp) 2

/-- BNC pcdisp24 (R327). -/
def execBnc24 (disp : BitVec 24) (s : State) : Result := branchIf s (!s.psw.c) (s.branchTarget disp) 4

/-- BRA pcdisp8 (R328). -/
def execBra8 (disp : BitVec 8) (s : State) : Result := .next (s.goto (s.branchTarget disp))

/-- BRA pcdisp24 (R329). -/
def execBra24 (disp : BitVec 24) (s : State) : Result := .next (s.goto (s.branchTarget disp))

/-- BEQ Rsrc1,Rsrc2,pcdisp16 (R330). -/
def execBeq (a b : Reg) (disp : BitVec 16) (s : State) : Result :=
  branchIf s (s.readReg a = s.readReg b) (s.branchTarget disp) 4

/-- BNE Rsrc1,Rsrc2,pcdisp16 (R331). -/
def execBne (a b : Reg) (disp : BitVec 16) (s : State) : Result :=
  branchIf s (s.readReg a ≠ s.readReg b) (s.branchTarget disp) 4

/-- BEQZ Rsrc,pcdisp16 (R332). -/
def execBeqz (src : Reg) (disp : BitVec 16) (s : State) : Result :=
  branchIf s (s.readReg src = 0) (s.branchTarget disp) 4

/-- BNEZ Rsrc,pcdisp16 (R333). -/
def execBnez (src : Reg) (disp : BitVec 16) (s : State) : Result :=
  branchIf s (s.readReg src ≠ 0) (s.branchTarget disp) 4

/-- The target of JL: the register's, unless it is R14 itself, where a free choice gives the old R14 or
the new link value (R334, U3, log 37). -/
def jumpLinkTarget (s : State) (src : Reg) : Word :=
  if src = 14 ∧ Config.jumpsToNewLink s.drawIndex then wordBase s.linkValue else wordBase (s.readReg src)

/-- JL Rsrc (R334). -/
def execJl (src : Reg) (s : State) : Result := branchLink s (jumpLinkTarget s src)

/-- JMP Rsrc (R335). -/
def execJmp (src : Reg) (s : State) : Result := .next (s.goto (wordBase (s.readReg src)))

/-- BLTZ Rsrc,pcdisp16 (R336). -/
def execBltz (src : Reg) (disp : BitVec 16) (s : State) : Result :=
  branchIf s (s.readReg src).msb (s.branchTarget disp) 4

/-- BGEZ Rsrc,pcdisp16 (R337). -/
def execBgez (src : Reg) (disp : BitVec 16) (s : State) : Result :=
  branchIf s (!(s.readReg src).msb) (s.branchTarget disp) 4

/-- BLEZ Rsrc,pcdisp16 (R338). -/
def execBlez (src : Reg) (disp : BitVec 16) (s : State) : Result :=
  branchIf s ((s.readReg src).msb || s.readReg src = 0) (s.branchTarget disp) 4

/-- BGTZ Rsrc,pcdisp16 (R339). -/
def execBgtz (src : Reg) (disp : BitVec 16) (s : State) : Result :=
  branchIf s (!(s.readReg src).msb && s.readReg src ≠ 0) (s.branchTarget disp) 4

/-- NOP (R340), in either slot (R136). -/
def execNop (s : State) : Result := .next (s.advance 2)

end Sys2Proof.Machine
end

