-- ==== Sys2Proof/Machine/Dsp.lean ====
section
/-! DEFINITION. The DSP function instructions (spec/46_dsp.md R360 to R380). Products are exact integers;
the accumulator keeps them modulo 2^56 (R376, R378, log 29). -/

namespace Sys2Proof.Machine

/-- Put an integer in the accumulator and go to the next instruction. -/
def accNext (s : State) (v : Int) : Result := .next ((s.setAcc v).advance 2)

/-- MULHI Rsrc1,Rsrc2 (R361): the product's LSB stands at manual bit 47. -/
def execMulhi (a b : Reg) (s : State) : Result :=
  accNext s (hi16 (s.readReg a) * hi16 (s.readReg b) * 2 ^ 16)

/-- MULLO Rsrc1,Rsrc2 (R362). -/
def execMullo (a b : Reg) (s : State) : Result :=
  accNext s (lo16 (s.readReg a) * lo16 (s.readReg b) * 2 ^ 16)

/-- MULWHI Rsrc1,Rsrc2 (R363): the product's LSB stands at the accumulator's LSB. -/
def execMulwhi (a b : Reg) (s : State) : Result := accNext s (s32 (s.readReg a) * hi16 (s.readReg b))

/-- MULWLO Rsrc1,Rsrc2 (R364). -/
def execMulwlo (a b : Reg) (s : State) : Result := accNext s (s32 (s.readReg a) * lo16 (s.readReg b))

/-- MACHI Rsrc1,Rsrc2 (R365). -/
def execMachi (a b : Reg) (s : State) : Result :=
  accNext s (s.accInt + hi16 (s.readReg a) * hi16 (s.readReg b) * 2 ^ 16)

/-- MACLO Rsrc1,Rsrc2 (R366). -/
def execMaclo (a b : Reg) (s : State) : Result :=
  accNext s (s.accInt + lo16 (s.readReg a) * lo16 (s.readReg b) * 2 ^ 16)

/-- MACWHI Rsrc1,Rsrc2 (R367). -/
def execMacwhi (a b : Reg) (s : State) : Result :=
  accNext s (s.accInt + s32 (s.readReg a) * hi16 (s.readReg b))

/-- MACWLO Rsrc1,Rsrc2 (R368). -/
def execMacwlo (a b : Reg) (s : State) : Result :=
  accNext s (s.accInt + s32 (s.readReg a) * lo16 (s.readReg b))

/-- MVFACHI Rdest (R369): ACC64[63:32]. -/
def execMvfachi (d : Reg) (s : State) : Result := writeNext s d (s.acc64.extractLsb' 32 32) 2

/-- MVFACLO Rdest (R370): ACC64[31:0]. -/
def execMvfaclo (d : Reg) (s : State) : Result := writeNext s d (s.acc64.extractLsb' 0 32) 2

/-- MVFACMI Rdest (R371): ACC64[47:16]. -/
def execMvfacmi (d : Reg) (s : State) : Result := writeNext s d (s.acc64.extractLsb' 16 32) 2

/-- MVTACHI Rsrc (R372): the register's top byte is discarded, ACC[31:0] unchanged. -/
def execMvtachi (src : Reg) (s : State) : Result :=
  .next ({ s with acc := (s.readReg src).extractLsb' 0 24 ++ s.acc.extractLsb' 0 32 }.advance 2)

/-- MVTACLO Rsrc (R373): ACC[55:32] unchanged. -/
def execMvtaclo (src : Reg) (s : State) : Result :=
  .next ({ s with acc := s.acc.extractLsb' 32 24 ++ s.readReg src }.advance 2)

/-- Round after a shift left by one: add half a unit, saturate to 48 signed bits, clear the bits below
the unit. `unit` is 2^16 for a word and 2^32 for a halfword (R374, R375). -/
def roundAcc (unit v : Int) : Int :=
  let t := v * 2 + unit / 2
  if t > 2 ^ 47 - unit then 2 ^ 47 - unit
  else if t < -2 ^ 47 then -2 ^ 47
  else t - t % unit

/-- RAC (R374). -/
def execRac (s : State) : Result := accNext s (roundAcc (2 ^ 16) s.accInt)

/-- RACH (R375). -/
def execRach (s : State) : Result := accNext s (roundAcc (2 ^ 32) s.accInt)

end Sys2Proof.Machine
end

