-- ==== Sys2Proof/Machine/Eit.lean ====
section
/-! DEFINITION. The EIT instructions TRAP and RTE (spec/45_eit_instructions.md R350 to R353). -/

namespace Sys2Proof.Machine

/-- TRAP #imm4 (R351): EIT entry with the saved pc four past the TRAP halfword, taken literally (log 27). -/
def execTrap (n : Fin 16) (s : State) : Result := .next (s.eitEntry (.trap n) (s.pc + 4))

/-- RTE (R352). -/
def execRte (s : State) : Result := .next s.eitReturn

end Sys2Proof.Machine
end

