-- ==== Sys2Proof/Machine/FpFormat.lean ====
section
/-! DEFINITION. The single-precision format and its classes (spec/47_fp_common_arith.md R400 to R402,
R416), and exact values: a sign and a quotient of natural numbers, so that every operation is computed
exactly and rounded once. -/

namespace Sys2Proof.Machine

/-- The sign bit (R400). -/
def fpSign (x : Word) : Bool := x.msb

/-- The biased exponent (R400). -/
def fpExp (x : Word) : BitVec 8 := x.extractLsb' 23 8

/-- The fraction (R400). -/
def fpFrac (x : Word) : BitVec 23 := x.extractLsb' 0 23

/-- The classes of R401. -/
inductive FpClass where
  | normalized
  | zero
  | denormalized
  | infinity
  | qnan
  | snan
deriving DecidableEq, Repr

/-- The class of a word (R401). -/
def fpClass (x : Word) : FpClass :=
  if fpExp x = 255 then
    if fpFrac x = 0 then .infinity else if (fpFrac x).msb then .qnan else .snan
  else if fpExp x = 0 then
    if fpFrac x = 0 then .zero else .denormalized
  else .normalized

/-- The word is a NaN, of either kind (R401). -/
def isNan (x : Word) : Bool := fpClass x = .qnan || fpClass x = .snan

/-- A zero with a sign (R401). -/
def fpZero (neg : Bool) : Word := if neg then 0x80000000 else 0

/-- An infinity with a sign (R401). -/
def fpInfinity (neg : Bool) : Word := if neg then 0xFF800000 else 0x7F800000

/-- The largest finite value with a sign (R401). -/
def fpMax (neg : Bool) : Word := if neg then 0xFF7FFFFF else 0x7F7FFFFF

/-- The QNaN that an invalid operation without a NaN operand gives (R414, R416). -/
def defaultNan : Word := 0x7FFFFFFF

/-- An SNaN converted to a QNaN: manual bit b9 set, everything else kept (R416, log 25). -/
def quiet (x : Word) : Word := x ||| 0x00400000

/-- The sign bit inverted. -/
def fpNegate (x : Word) : Word := x ^^^ 0x80000000

/-- DN = 1: a denormalized operand is taken as the zero of its sign (R402). -/
def flushOperand (dn : Bool) (x : Word) : Word :=
  if dn ∧ fpClass x = .denormalized then fpZero (fpSign x) else x

/-- The operand raises UIPL: denormalized with DN = 0 (R402, R415). -/
def unimplementedOperand (dn : Bool) (x : Word) : Bool := !dn && fpClass x = .denormalized

/-- The magnitude of a finite word in units of 2^-149; an infinity comes out above every finite word
(R401). -/
def fpMagnitude (x : Word) : Nat :=
  if fpExp x = 0 then (fpFrac x).toNat else (2 ^ 23 + (fpFrac x).toNat) * 2 ^ ((fpExp x).toNat - 1)

/-- The value of a finite word in units of 2^-149 (R401). -/
def fpUnits (x : Word) : Int := if fpSign x then -(fpMagnitude x : Int) else fpMagnitude x

/-- The NaN that two operands give, at least one of them a NaN (R416). -/
def nan2 (a b : Word) : Word :=
  if fpClass a = .snan ∧ fpClass b = .snan then quiet b
  else if fpClass a = .snan then quiet a
  else if fpClass b = .snan then quiet b
  else if fpClass b = .qnan then b
  else a

/-- An exact non-zero real number: `num / den`, negative when `neg`. -/
structure Exact where
  neg : Bool
  num : Nat
  den : Nat
deriving DecidableEq, Repr

end Sys2Proof.Machine
end

