-- ==== Sys2Proof/Machine/FpRound.lean ====
section
/-! DEFINITION. Rounding, detection and commit of the floating-point instructions
(spec/47_fp_common_arith.md R403 to R415). -/

namespace Sys2Proof.Machine

/-- The exponent E of a positive quotient: 2^E ≤ num/den < 2^(E+1) (R403). The difference of the two
logarithms is E or E + 1. -/
def exponentOf (num den : Nat) : Int :=
  let e : Int := (Nat.log2 num : Int) - Nat.log2 den
  if den * 2 ^ e.toNat ≤ num * 2 ^ (-e).toNat then e else e - 1

/-- The quotient `n / d` rounded to an integer in a direction that applies to the signed value (R403). -/
def roundQuotient (rm : RoundingMode) (neg : Bool) (n d : Nat) : Nat :=
  let q := n / d
  let r := n % d
  match rm with
  | .nearest => if 2 * r > d ∨ (2 * r = d ∧ q % 2 = 1) then q + 1 else q
  | .towardZero => q
  | .towardPlusInf => if ¬neg ∧ r ≠ 0 then q + 1 else q
  | .towardMinusInf => if neg ∧ r ≠ 0 then q + 1 else q

/-- A value rounded to 24 significant bits with an unbounded exponent: `sig * 2^(exponent - 23)`, where
2^23 ≤ sig < 2^24 (R403). -/
structure Rounded where
  neg : Bool
  exponent : Int
  sig : Nat
  inexact : Bool
deriving DecidableEq, Repr

/-- `round24(rm, v)` (R403). -/
def round24 (rm : RoundingMode) (v : Exact) : Rounded :=
  let e := exponentOf v.num v.den
  let n := v.num * 2 ^ (23 - e).toNat
  let d := v.den * 2 ^ (e - 23).toNat
  let sig := roundQuotient rm v.neg n d
  let inexact := decide (n % d ≠ 0)
  if sig = 2 ^ 24 then { neg := v.neg, exponent := e + 1, sig := 2 ^ 23, inexact := inexact }
  else { neg := v.neg, exponent := e, sig := sig, inexact := inexact }

/-- The word of a rounded value in the normalized range: s, E + 127, the low 23 bits (R404). -/
def packRounded (x : Rounded) : Word :=
  BitVec.ofBool x.neg ++ BitVec.ofInt 8 (x.exponent + 127) ++ BitVec.ofNat 23 x.sig

/-- The exceptions that an instruction detects: a set of the six (R405). -/
structure Detected where
  uipl : Bool := false
  ivld : Bool := false
  div0 : Bool := false
  ovf : Bool := false
  udf : Bool := false
  ixct : Bool := false
deriving DecidableEq, Repr

/-- Nothing detected. -/
def detectedNone : Detected := {}

/-- The exceptions of either set. -/
def detectedUnion (x y : Detected) : Detected :=
  { uipl := x.uipl || y.uipl, ivld := x.ivld || y.ivld, div0 := x.div0 || y.div0
    ovf := x.ovf || y.ovf, udf := x.udf || y.udf, ixct := x.ixct || y.ixct }

/-- What an operation detects and the value it would write. -/
structure FpResult where
  detected : Detected
  value : Word
deriving DecidableEq, Repr

/-- A result with nothing detected. -/
def fpPlain (v : Word) : FpResult := { detected := detectedNone, value := v }

/-- An invalid operation and the value written when it is masked (R414). -/
def fpInvalid (v : Word) : FpResult := { detected := { ivld := true }, value := v }

/-- An unimplemented operation: it always traps, so its value is never written (R415). -/
def fpUnimplemented : FpResult := { detected := { uipl := true }, value := 0 }

/-- The value that a masked overflow gives (R410). -/
def overflowValue (rm : RoundingMode) (neg : Bool) : Word :=
  match rm with
  | .nearest => fpInfinity neg
  | .towardZero => fpMax neg
  | .towardPlusInf => if neg then fpMax neg else fpInfinity neg
  | .towardMinusInf => if neg then fpInfinity neg else fpMax neg

/-- What an overflow detects: masked, it is inexact too (R410, log 23). -/
def overflowDetected (f : Fpsr) : Detected := { ovf := true, ixct := !f.eo }

/-- What an underflow detects: with DN = 0 it is unimplemented too (R411). -/
def underflowDetected (f : Fpsr) : Detected := { udf := true, uipl := !f.dn }

/-- The exact value is below 2^-126 in magnitude: judged before rounding (R404, R411, log 26). -/
def isTiny (v : Exact) : Bool := decide (v.num * 2 ^ 126 < v.den)

/-- `finish(rm, v)` (R404): underflow judged on the exact value, overflow on the rounded one. `zeroNeg` is
the drawn sign of a flushed result (R411, log 17). -/
def finish (f : Fpsr) (zeroNeg : Bool) (v : Exact) : FpResult :=
  if isTiny v then { detected := underflowDetected f, value := fpZero zeroNeg }
  else
    let x := round24 f.rm v
    if x.exponent > 127 then { detected := overflowDetected f, value := overflowValue f.rm x.neg }
    else { detected := { ixct := x.inexact }, value := packRounded x }

/-- The detected exceptions raise FPE: UIPL always, each other one when it is enabled (R405, R503). -/
def fpTraps (f : Fpsr) (x : Detected) : Bool :=
  x.uipl || (x.ivld && f.ev) || (x.div0 && f.ez) || (x.ovf && f.eo) || (x.udf && f.eu) || (x.ixct && f.ex)

/-- The cause bits cleared, then set from what is detected, enabled or not (R405, log 16). -/
def fpsrWithCauses (f : Fpsr) (x : Detected) : Fpsr :=
  { f with ce := x.uipl, cx := x.ixct, cu := x.udf, cz := x.div0, co := x.ovf, cv := x.ivld }

/-- The sticky flags of what is detected set (R49, R405). -/
def fpsrWithFlags (f : Fpsr) (x : Detected) : Fpsr :=
  { f with fx := f.fx || x.ixct, fu := f.fu || x.udf, fz := f.fz || x.div0, fo := f.fo || x.ovf, fv := f.fv || x.ivld }

/-- The FPSR after an instruction that detects `x` (R405): the causes, and the flags unless it traps. -/
def fpsrAfter (f : Fpsr) (x : Detected) : Fpsr :=
  if fpTraps f x then fpsrWithCauses f x else fpsrWithFlags (fpsrWithCauses f x) x

/-- The commit of the twelve floating-point instructions (R405): raise FPE with the register unchanged, or
write the value. -/
def fpCommit (s : State) (d : Reg) (x : FpResult) : Result :=
  let t : State := { s with fpsr := fpsrAfter s.fpsr x.detected }
  if fpTraps s.fpsr x.detected then .next t.raiseFpe else .next ((t.writeReg d x.value).advance 4)

end Sys2Proof.Machine
end

