-- ==== Sys2Proof/Machine/Float.lean ====
section
/-! DEFINITION. The floating-point instructions: arithmetic (spec/47_fp_common_arith.md R416 to R429),
conversions and compares (spec/48_fp_convert_compare.md R450 to R459). -/

namespace Sys2Proof.Machine

/-- What a cell of an instruction's case table says (R427). -/
inductive TableCell where
  /-- A special result, exact. -/
  | special (v : Word)
  /-- Invalid operation. -/
  | ivld
  /-- Division of a finite non-zero value by zero. -/
  | div0
  /-- An exact non-zero value, to be finished. -/
  | exact (v : Exact)
deriving DecidableEq, Repr

/-- The sign of an exact zero sum: -0 toward minus infinity, +0 otherwise (R420 Note, log 43). -/
def zeroSum (rm : RoundingMode) : Word := fpZero (rm = .towardMinusInf)

/-- FADD's table, for operands that are no NaN and not denormalized (R420). -/
def addTable (rm : RoundingMode) (a b : Word) : TableCell :=
  match fpClass a, fpClass b with
  | .infinity, .infinity => if fpSign a = fpSign b then .special a else .ivld
  | .infinity, _ => .special a
  | _, .infinity => .special b
  | .zero, .zero => if fpSign a = fpSign b then .special a else .special (zeroSum rm)
  | .zero, _ => .special b
  | _, .zero => .special a
  | _, _ =>
    let x := fpUnits a + fpUnits b
    if x = 0 then .special (zeroSum rm)
    else .exact { neg := decide (x < 0), num := x.natAbs, den := 2 ^ 149 }

/-- FSUB's table: FADD's with b's sign inverted (R421). -/
def subTable (rm : RoundingMode) (a b : Word) : TableCell := addTable rm a (fpNegate b)

/-- The sign of a product or quotient (R422, R423). -/
def signXor (a b : Word) : Bool := fpSign a ^^ fpSign b

/-- FMUL's table (R422). -/
def mulTable (a b : Word) : TableCell :=
  match fpClass a, fpClass b with
  | .infinity, .zero => .ivld
  | .zero, .infinity => .ivld
  | .infinity, _ => .special (fpInfinity (signXor a b))
  | _, .infinity => .special (fpInfinity (signXor a b))
  | .zero, _ => .special (fpZero (signXor a b))
  | _, .zero => .special (fpZero (signXor a b))
  | _, _ => .exact { neg := signXor a b, num := fpMagnitude a * fpMagnitude b, den := 2 ^ 298 }

/-- FDIV's table, a the dividend and b the divisor (R413, R423). -/
def divTable (a b : Word) : TableCell :=
  match fpClass a, fpClass b with
  | .infinity, .infinity => .ivld
  | .zero, .zero => .ivld
  | .infinity, _ => .special (fpInfinity (signXor a b))
  | _, .infinity => .special (fpZero (signXor a b))
  | _, .zero => .div0
  | .zero, _ => .special (fpZero (signXor a b))
  | _, _ => .exact { neg := signXor a b, num := fpMagnitude a, den := fpMagnitude b }

/-- The result of a table's cell (R427). -/
def cellResult (f : Fpsr) (zeroNeg : Bool) (a b : Word) : TableCell → FpResult
  | .special v => fpPlain v
  | .ivld => fpInvalid defaultNan
  | .div0 => { detected := { div0 := true }, value := fpInfinity (signXor a b) }
  | .exact v => finish f zeroNeg v

/-- The shape of the two-operand instructions: SNaN, QNaN, denormalized with DN = 0, then the table
(R417, R427). -/
def fpTwoOperand (table : Word → Word → TableCell) (f : Fpsr) (zeroNeg : Bool) (a b : Word) : FpResult :=
  if fpClass a = .snan ∨ fpClass b = .snan then fpInvalid (nan2 a b)
  else if fpClass a = .qnan ∨ fpClass b = .qnan then fpPlain (nan2 a b)
  else if unimplementedOperand f.dn a ∨ unimplementedOperand f.dn b then fpUnimplemented
  else cellResult f zeroNeg a b (table (flushOperand f.dn a) (flushOperand f.dn b))

/-- A two-operand instruction with its commit. -/
def fpArith (table : Word → Word → TableCell) (d a b : Reg) (s : State) : Result :=
  fpCommit s d
    (fpTwoOperand table s.fpsr (Config.flushedZeroSign s.drawIndex) (s.readReg a) (s.readReg b))

/-- FADD Rdest,Rsrc1,Rsrc2 (R420). -/
def execFadd (d a b : Reg) (s : State) : Result := fpArith (addTable s.fpsr.rm) d a b s

/-- FSUB Rdest,Rsrc1,Rsrc2 (R421). -/
def execFsub (d a b : Reg) (s : State) : Result := fpArith (subTable s.fpsr.rm) d a b s

/-- FMUL Rdest,Rsrc1,Rsrc2 (R422). -/
def execFmul (d a b : Reg) (s : State) : Result := fpArith mulTable d a b s

/-- FDIV Rdest,Rsrc1,Rsrc2 (R423). -/
def execFdiv (d a b : Reg) (s : State) : Result := fpArith divTable d a b s

/-- Step 1 of a multiply-add: what it detects, the product, and whether the product is an overflow's
immediate value (R428). -/
structure ProductStep where
  detected : Detected
  product : Word
  overflowed : Bool
deriving DecidableEq, Repr

/-- Step 1's result for an exact product: rounded toward zero, but an overflow's immediate value follows
RM (R428, R429). -/
def finishProduct (f : Fpsr) (zeroNeg : Bool) (v : Exact) : ProductStep :=
  if isTiny v then { detected := underflowDetected f, product := fpZero zeroNeg, overflowed := false }
  else
    let x := round24 .towardZero v
    if x.exponent > 127 then
      { detected := overflowDetected f, product := overflowValue f.rm x.neg, overflowed := true }
    else { detected := { ixct := x.inexact }, product := packRounded x, overflowed := false }

/-- A product that is not finished by rounding. -/
def plainProduct (x : FpResult) : ProductStep :=
  { detected := x.detected, product := x.value, overflowed := false }

/-- Step 1: the product of the two sources, judged on them alone (R428). -/
def productStep (f : Fpsr) (zeroNeg : Bool) (a b : Word) : ProductStep :=
  if fpClass a = .snan ∨ fpClass b = .snan then plainProduct (fpInvalid (nan2 a b))
  else if fpClass a = .qnan ∨ fpClass b = .qnan then plainProduct (fpPlain (nan2 a b))
  else if unimplementedOperand f.dn a ∨ unimplementedOperand f.dn b then plainProduct fpUnimplemented
  else
    match mulTable (flushOperand f.dn a) (flushOperand f.dn b) with
    | .special v => plainProduct (fpPlain v)
    | .exact v => finishProduct f zeroNeg v
    | _ => plainProduct (fpInvalid defaultNan)

/-- What the class of the old Rdest adds when step 1 already traps (R428, R429, log 24). -/
def addendCauses (f : Fpsr) (c : Word) : Detected :=
  { ivld := decide (fpClass c = .snan), uipl := unimplementedOperand f.dn c }

/-- Step 2 on numbers: the product, or its negation for FMSUB, added to the old Rdest; an overflow's
immediate value is the result itself unless the old Rdest is an infinity (R428, R429, log 24). -/
def addendNumberStep (sub : Bool) (f : Fpsr) (zeroNeg : Bool) (c : Word) (p : ProductStep) : FpResult :=
  let c' := flushOperand f.dn c
  let q := if sub then fpNegate p.product else p.product
  if p.overflowed ∧ fpClass c' ≠ .infinity then fpPlain q
  else cellResult f zeroNeg c' q (addTable f.rm c' q)

/-- Step 2: QNaN in Rdest, SNaN in Rdest, NaN product, denormalized Rdest with DN = 0, then the sum
(R428, log 24). -/
def addendStep (sub : Bool) (f : Fpsr) (zeroNeg : Bool) (c : Word) (p : ProductStep) : FpResult :=
  if fpClass c = .qnan then fpPlain c
  else if fpClass c = .snan then fpInvalid (quiet c)
  else if isNan p.product then fpPlain p.product
  else if unimplementedOperand f.dn c then fpUnimplemented
  else addendNumberStep sub f zeroNeg c p

/-- `fmac(sub)` (R428): a trap of step 1 ends the instruction; else what both steps detect counts. -/
def multiplyAdd (sub : Bool) (f : Fpsr) (productZeroNeg zeroNeg : Bool) (a b c : Word) : FpResult :=
  let p := productStep f productZeroNeg a b
  if fpTraps f p.detected then
    { detected := detectedUnion p.detected (addendCauses f c), value := 0 }
  else
    let x := addendStep sub f zeroNeg c p
    { detected := detectedUnion p.detected x.detected, value := x.value }

/-- A multiply-add or multiply-subtract with its commit. -/
def fpMultiplyAdd (sub : Bool) (d a b : Reg) (s : State) : Result :=
  fpCommit s d
    (multiplyAdd sub s.fpsr (Config.flushedProductSign s.drawIndex) (Config.flushedZeroSign s.drawIndex)
      (s.readReg a) (s.readReg b) (s.readReg d))

/-- FMADD Rdest,Rsrc1,Rsrc2 (R424). -/
def execFmadd (d a b : Reg) (s : State) : Result := fpMultiplyAdd false d a b s

/-- FMSUB Rdest,Rsrc1,Rsrc2 (R425). -/
def execFmsub (d a b : Reg) (s : State) : Result := fpMultiplyAdd true d a b s

/-- An integer as a floating-point value (R451): +0 for zero, else rounded by RM; only inexact can be
detected. -/
def fromInteger (rm : RoundingMode) (x : Int) : FpResult :=
  if x = 0 then fpPlain 0
  else
    let r := round24 rm { neg := decide (x < 0), num := x.natAbs, den := 1 }
    { detected := { ixct := r.inexact }, value := packRounded r }

/-- ITOF Rdest,Rsrc (R451). -/
def execItof (d src : Reg) (s : State) : Result := fpCommit s d (fromInteger s.fpsr.rm (s.readReg src).toInt)

/-- UTOF Rdest,Rsrc (R452). -/
def execUtof (d src : Reg) (s : State) : Result := fpCommit s d (fromInteger s.fpsr.rm (s.readReg src).toNat)

/-- `saturate(W, sign)` (R458): the limit of W signed bits, as a word. -/
def saturate (width : Nat) (neg : Bool) : Word :=
  BitVec.ofInt 32 (if neg then -2 ^ (width - 1) else 2 ^ (width - 1) - 1)

/-- A finite word truncated toward zero to an integer (R458). -/
def truncated (x : Word) : Int :=
  if fpSign x then -((fpMagnitude x / 2 ^ 149 : Nat) : Int) else (fpMagnitude x / 2 ^ 149 : Nat)

/-- `ftoint(W)` on a word that is neither a NaN nor an infinity nor denormalized (R458, log 18). -/
def finiteToInteger (width : Nat) (x : Word) : FpResult :=
  let t := truncated x
  if t > 2 ^ (width - 1) - 1 ∨ t < -2 ^ (width - 1) then fpInvalid (saturate width (fpSign x))
  else
    { detected := { ixct := decide (fpMagnitude x % 2 ^ 149 ≠ 0) }, value := BitVec.ofInt 32 t }

/-- `ftoint(W)` (R458). -/
def toInteger (width : Nat) (f : Fpsr) (x : Word) : FpResult :=
  match fpClass x with
  | .qnan => fpInvalid (saturate width (fpSign x))
  | .snan => fpInvalid (saturate width (fpSign x))
  | .infinity => fpInvalid (saturate width (fpSign x))
  | .denormalized => if f.dn then fpPlain 0 else fpUnimplemented
  | .zero => fpPlain 0
  | .normalized => finiteToInteger width x

/-- FTOI Rdest,Rsrc (R453). -/
def execFtoi (d src : Reg) (s : State) : Result := fpCommit s d (toInteger 32 s.fpsr (s.readReg src))

/-- FTOS Rdest,Rsrc (R454). -/
def execFtos (d src : Reg) (s : State) : Result := fpCommit s d (toInteger 16 s.fpsr (s.readReg src))

/-- A compare result of class "less": bit [31] is 1, the rest free (R457, log 39). -/
def lessWord (draw : Nat) : Word := (1 : BitVec 1) ++ Config.lessBits draw

/-- Bits [30:0] may stand in a result of class "greater": not zero, the top nine not all 1 (R457). -/
def greaterAllowed (x : BitVec 31) : Bool := x ≠ 0 && x.extractLsb' 22 9 ≠ 0x1FF

/-- A compare result of class "greater": bit [31] is 0, the rest free within the class; a draw outside
the class is taken as 1 (R457, log 39). -/
def greaterWord (draw : Nat) : Word :=
  (0 : BitVec 1) ++ (if greaterAllowed (Config.greaterBits draw) then Config.greaterBits draw else 1)

/-- A compare result of class "invalid": bit [31] is 0, bits [30:22] are 1, the rest free (R457, log 39). -/
def invalidWord (draw : Nat) : Word := (0 : BitVec 1) ++ (0x1FF : BitVec 9) ++ Config.invalidBits draw

/-- The result word for two words that are no NaN, after DN handling (R457, R459). -/
def orderWord (draw : Nat) (a b : Word) : Word :=
  if fpUnits a = fpUnits b then 0 else if fpUnits a < fpUnits b then lessWord draw else greaterWord draw

/-- A compare; `qnanInvalid` says whether a QNaN operand is invalid too (R455, R456). -/
def compareResult (qnanInvalid : Bool) (f : Fpsr) (draw : Nat) (a b : Word) : FpResult :=
  if fpClass a = .snan ∨ fpClass b = .snan then fpInvalid (invalidWord draw)
  else if fpClass a = .qnan ∨ fpClass b = .qnan then
    if qnanInvalid then fpInvalid (invalidWord draw) else fpPlain (invalidWord draw)
  else if unimplementedOperand f.dn a ∨ unimplementedOperand f.dn b then fpUnimplemented
  else fpPlain (orderWord draw (flushOperand f.dn a) (flushOperand f.dn b))

/-- FCMP Rdest,Rsrc1,Rsrc2 (R455). -/
def execFcmp (d a b : Reg) (s : State) : Result :=
  fpCommit s d (compareResult false s.fpsr s.drawIndex (s.readReg a) (s.readReg b))

/-- FCMPE Rdest,Rsrc1,Rsrc2 (R456). -/
def execFcmpe (d a b : Reg) (s : State) : Result :=
  fpCommit s d (compareResult true s.fpsr s.drawIndex (s.readReg a) (s.readReg b))

end Sys2Proof.Machine
end

