-- ==== Sys2Proof/Machine/MulDivShift.lean ====
section
/-! DEFINITION. The multiply, divide and shift instructions (spec/43_muldiv_shift.md R290 to R305). None
traps: a zero divisor leaves Rdest unchanged (R290). -/

namespace Sys2Proof.Machine

/-- The one signed division whose quotient is no signed word: -2^31 by -1 (R291). -/
def divisionOverflows (a b : Word) : Bool := a = 0x80000000 && b = 0xFFFFFFFF

/-- The quotient DIV writes: rounded toward zero; free where it is no signed word (R291, log 15). -/
def quotient (s : State) (a b : Word) : Word :=
  if divisionOverflows a b then Config.overflowQuotient s.drawIndex
  else BitVec.ofInt 32 (a.toInt.tdiv b.toInt)

/-- The remainder REM writes: of the dividend's sign; free where the quotient is no signed word (R294,
log 15). -/
def remainder (s : State) (a b : Word) : Word :=
  if divisionOverflows a b then Config.overflowRemainder s.drawIndex
  else BitVec.ofInt 32 (a.toInt.tmod b.toInt)

/-- A divide or remainder with its result; a zero divisor leaves the register unchanged (R290). -/
def divideNext (s : State) (d src : Reg) (v : Word) : Result :=
  if s.readReg src = 0 then .next (s.advance 4) else writeNext s d v 4

/-- DIV Rdest,Rsrc (R291). -/
def execDiv (d src : Reg) (s : State) : Result :=
  divideNext s d src (quotient s (s.readReg d) (s.readReg src))

/-- DIVU Rdest,Rsrc (R292). -/
def execDivu (d src : Reg) (s : State) : Result :=
  divideNext s d src (BitVec.ofNat 32 ((s.readReg d).toNat / (s.readReg src).toNat))

/-- MUL Rdest,Rsrc (R293): the low 32 bits of the signed product; the accumulator is destroyed, which
makes it a free value (log 38). -/
def execMul (d src : Reg) (s : State) : Result :=
  writeNext { s with acc := Config.accAfterMul s.drawIndex } d
    (BitVec.ofInt 32 ((s.readReg d).toInt * (s.readReg src).toInt)) 2

/-- REM Rdest,Rsrc (R294). -/
def execRem (d src : Reg) (s : State) : Result :=
  divideNext s d src (remainder s (s.readReg d) (s.readReg src))

/-- REMU Rdest,Rsrc (R295). -/
def execRemu (d src : Reg) (s : State) : Result :=
  divideNext s d src (BitVec.ofNat 32 ((s.readReg d).toNat % (s.readReg src).toNat))

/-- SLL Rdest,Rsrc (R296). -/
def execSll (d src : Reg) (s : State) : Result :=
  writeNext s d (s.readReg d <<< regCount (s.readReg src)) 2

/-- SLL3 Rdest,Rsrc,#imm16 (R297). -/
def execSll3 (d src : Reg) (imm : BitVec 16) (s : State) : Result :=
  writeNext s d (s.readReg src <<< immCount imm) 4

/-- SLLI Rdest,#imm5 (R298). -/
def execSlli (d : Reg) (imm : BitVec 5) (s : State) : Result := writeNext s d (s.readReg d <<< imm.toNat) 2

/-- SRA Rdest,Rsrc (R299): the sign bit is replicated. -/
def execSra (d src : Reg) (s : State) : Result :=
  writeNext s d ((s.readReg d).sshiftRight (regCount (s.readReg src))) 2

/-- SRA3 Rdest,Rsrc,#imm16 (R300). -/
def execSra3 (d src : Reg) (imm : BitVec 16) (s : State) : Result :=
  writeNext s d ((s.readReg src).sshiftRight (immCount imm)) 4

/-- SRAI Rdest,#imm5 (R301). -/
def execSrai (d : Reg) (imm : BitVec 5) (s : State) : Result :=
  writeNext s d ((s.readReg d).sshiftRight imm.toNat) 2

/-- SRL Rdest,Rsrc (R302): zeros are shifted in. -/
def execSrl (d src : Reg) (s : State) : Result :=
  writeNext s d (s.readReg d >>> regCount (s.readReg src)) 2

/-- SRL3 Rdest,Rsrc,#imm16 (R303). -/
def execSrl3 (d src : Reg) (imm : BitVec 16) (s : State) : Result :=
  writeNext s d (s.readReg src >>> immCount imm) 4

/-- SRLI Rdest,#imm5 (R304). -/
def execSrli (d : Reg) (imm : BitVec 5) (s : State) : Result := writeNext s d (s.readReg d >>> imm.toNat) 2

end Sys2Proof.Machine
end

