-- ==== Sys2Proof/Machine/Dispatch.lean ====
section
/-! DEFINITION. The dispatch: one arm for each instruction, in the opcode table's order. -/

namespace Sys2Proof.Machine

/-- What an instruction does (the rule of each stands at its meaning). -/
def exec (i : Instr) (s : State) : Host.Outcome State Fault Refusal :=
  match i with
  | .ldInd d src => Sys2Proof.Machine.execLdInd d src s
  | .ldPostInc d src => Sys2Proof.Machine.execLdPostInc d src s
  | .ldDisp d disp src => Sys2Proof.Machine.execLdDisp d disp src s
  | .ldbInd d src => Sys2Proof.Machine.execLdbInd d src s
  | .ldbDisp d disp src => Sys2Proof.Machine.execLdbDisp d disp src s
  | .ldubInd d src => Sys2Proof.Machine.execLdubInd d src s
  | .ldubDisp d disp src => Sys2Proof.Machine.execLdubDisp d disp src s
  | .ldhInd d src => Sys2Proof.Machine.execLdhInd d src s
  | .ldhDisp d disp src => Sys2Proof.Machine.execLdhDisp d disp src s
  | .lduhInd d src => Sys2Proof.Machine.execLduhInd d src s
  | .lduhDisp d disp src => Sys2Proof.Machine.execLduhDisp d disp src s
  | .lock d src => Sys2Proof.Machine.execLock d src s
  | .stInd a b => Sys2Proof.Machine.execStInd a b s
  | .stPreInc a b => Sys2Proof.Machine.execStPreInc a b s
  | .stPreDec a b => Sys2Proof.Machine.execStPreDec a b s
  | .stDisp a disp b => Sys2Proof.Machine.execStDisp a disp b s
  | .stbInd a b => Sys2Proof.Machine.execStbInd a b s
  | .stbDisp a disp b => Sys2Proof.Machine.execStbDisp a disp b s
  | .sthInd a b => Sys2Proof.Machine.execSthInd a b s
  | .sthPostInc a b => Sys2Proof.Machine.execSthPostInc a b s
  | .sthDisp a disp b => Sys2Proof.Machine.execSthDisp a disp b s
  | .unlock a b => Sys2Proof.Machine.execUnlock a b s
  | .ld24 d imm => Sys2Proof.Machine.execLd24 d imm s
  | .ldi8 d imm => Sys2Proof.Machine.execLdi8 d imm s
  | .ldi16 d imm => Sys2Proof.Machine.execLdi16 d imm s
  | .mv d src => Sys2Proof.Machine.execMv d src s
  | .mvfc d cr => Sys2Proof.Machine.execMvfc d cr s
  | .mvtc src cr => Sys2Proof.Machine.execMvtc src cr s
  | .seth d imm => Sys2Proof.Machine.execSeth d imm s
  | .cmp a b => Sys2Proof.Machine.execCmp a b s
  | .cmpi src imm => Sys2Proof.Machine.execCmpi src imm s
  | .cmpu a b => Sys2Proof.Machine.execCmpu a b s
  | .cmpui src imm => Sys2Proof.Machine.execCmpui src imm s
  | .add d src => Sys2Proof.Machine.execAdd d src s
  | .add3 d src imm => Sys2Proof.Machine.execAdd3 d src imm s
  | .addi d imm => Sys2Proof.Machine.execAddi d imm s
  | .addv d src => Sys2Proof.Machine.execAddv d src s
  | .addv3 d src imm => Sys2Proof.Machine.execAddv3 d src imm s
  | .addx d src => Sys2Proof.Machine.execAddx d src s
  | .neg d src => Sys2Proof.Machine.execNeg d src s
  | .sub d src => Sys2Proof.Machine.execSub d src s
  | .subv d src => Sys2Proof.Machine.execSubv d src s
  | .subx d src => Sys2Proof.Machine.execSubx d src s
  | .and d src => Sys2Proof.Machine.execAnd d src s
  | .and3 d src imm => Sys2Proof.Machine.execAnd3 d src imm s
  | .not d src => Sys2Proof.Machine.execNot d src s
  | .or d src => Sys2Proof.Machine.execOr d src s
  | .or3 d src imm => Sys2Proof.Machine.execOr3 d src imm s
  | .xor d src => Sys2Proof.Machine.execXor d src s
  | .xor3 d src imm => Sys2Proof.Machine.execXor3 d src imm s
  | .div d src => Sys2Proof.Machine.execDiv d src s
  | .divu d src => Sys2Proof.Machine.execDivu d src s
  | .mul d src => Sys2Proof.Machine.execMul d src s
  | .rem d src => Sys2Proof.Machine.execRem d src s
  | .remu d src => Sys2Proof.Machine.execRemu d src s
  | .sll d src => Sys2Proof.Machine.execSll d src s
  | .sll3 d src imm => Sys2Proof.Machine.execSll3 d src imm s
  | .slli d imm => Sys2Proof.Machine.execSlli d imm s
  | .sra d src => Sys2Proof.Machine.execSra d src s
  | .sra3 d src imm => Sys2Proof.Machine.execSra3 d src imm s
  | .srai d imm => Sys2Proof.Machine.execSrai d imm s
  | .srl d src => Sys2Proof.Machine.execSrl d src s
  | .srl3 d src imm => Sys2Proof.Machine.execSrl3 d src imm s
  | .srli d imm => Sys2Proof.Machine.execSrli d imm s
  | .bc8 disp => Sys2Proof.Machine.execBc8 disp s
  | .bc24 disp => Sys2Proof.Machine.execBc24 disp s
  | .bl8 disp => Sys2Proof.Machine.execBl8 disp s
  | .bl24 disp => Sys2Proof.Machine.execBl24 disp s
  | .bnc8 disp => Sys2Proof.Machine.execBnc8 disp s
  | .bnc24 disp => Sys2Proof.Machine.execBnc24 disp s
  | .bra8 disp => Sys2Proof.Machine.execBra8 disp s
  | .bra24 disp => Sys2Proof.Machine.execBra24 disp s
  | .beq a b disp => Sys2Proof.Machine.execBeq a b disp s
  | .bne a b disp => Sys2Proof.Machine.execBne a b disp s
  | .beqz src disp => Sys2Proof.Machine.execBeqz src disp s
  | .bnez src disp => Sys2Proof.Machine.execBnez src disp s
  | .jl src => Sys2Proof.Machine.execJl src s
  | .jmp src => Sys2Proof.Machine.execJmp src s
  | .bltz src disp => Sys2Proof.Machine.execBltz src disp s
  | .bgez src disp => Sys2Proof.Machine.execBgez src disp s
  | .blez src disp => Sys2Proof.Machine.execBlez src disp s
  | .bgtz src disp => Sys2Proof.Machine.execBgtz src disp s
  | .nop => Sys2Proof.Machine.execNop s
  | .trap n => Sys2Proof.Machine.execTrap n s
  | .rte => Sys2Proof.Machine.execRte s
  | .mulhi a b => Sys2Proof.Machine.execMulhi a b s
  | .mullo a b => Sys2Proof.Machine.execMullo a b s
  | .mulwhi a b => Sys2Proof.Machine.execMulwhi a b s
  | .mulwlo a b => Sys2Proof.Machine.execMulwlo a b s
  | .machi a b => Sys2Proof.Machine.execMachi a b s
  | .maclo a b => Sys2Proof.Machine.execMaclo a b s
  | .macwhi a b => Sys2Proof.Machine.execMacwhi a b s
  | .macwlo a b => Sys2Proof.Machine.execMacwlo a b s
  | .mvfachi d => Sys2Proof.Machine.execMvfachi d s
  | .mvfaclo d => Sys2Proof.Machine.execMvfaclo d s
  | .mvfacmi d => Sys2Proof.Machine.execMvfacmi d s
  | .mvtachi src => Sys2Proof.Machine.execMvtachi src s
  | .mvtaclo src => Sys2Proof.Machine.execMvtaclo src s
  | .rac => Sys2Proof.Machine.execRac s
  | .rach => Sys2Proof.Machine.execRach s
  | .fadd d a b => Sys2Proof.Machine.execFadd d a b s
  | .fsub d a b => Sys2Proof.Machine.execFsub d a b s
  | .fmul d a b => Sys2Proof.Machine.execFmul d a b s
  | .fdiv d a b => Sys2Proof.Machine.execFdiv d a b s
  | .fmadd d a b => Sys2Proof.Machine.execFmadd d a b s
  | .fmsub d a b => Sys2Proof.Machine.execFmsub d a b s
  | .itof d src => Sys2Proof.Machine.execItof d src s
  | .utof d src => Sys2Proof.Machine.execUtof d src s
  | .ftoi d src => Sys2Proof.Machine.execFtoi d src s
  | .ftos d src => Sys2Proof.Machine.execFtos d src s
  | .fcmp d a b => Sys2Proof.Machine.execFcmp d a b s
  | .fcmpe d a b => Sys2Proof.Machine.execFcmpe d a b s
  | .bset t disp src => Sys2Proof.Machine.execBset t disp src s
  | .bclr t disp src => Sys2Proof.Machine.execBclr t disp src s
  | .btst t src => Sys2Proof.Machine.execBtst t src s
  | .setpsw imm => Sys2Proof.Machine.execSetpsw imm s
  | .clrpsw imm => Sys2Proof.Machine.execClrpsw imm s

end Sys2Proof.Machine
end

