-- ==== Sys2Proof/Machine/Step.lean ====
section
/-! DEFINITION. One step of the machine: the boundary's input first (reset over everything, then the
interrupt, spec/60_exceptions.md R522), else one instruction fetched, decoded and run to completion. -/

namespace Sys2Proof.Machine

/-- One step: the fetch's read comes first, then the instruction (R131, R521, R522, R560). -/
def step (s : State) : Host.Outcome State Fault Refusal :=
  if s.input = .reset then .next s.hostReset
  else if s.pc.getLsbD 0 then .fault .oddPc
  else if s.acceptsInterrupt then .next s.takeInterrupt
  else
    match s.tick.fetch with
    | .ok i => exec i s.tick.afterFetch
    | .error e => .refused (refusalOf e)

/-- The state with an instruction of the opcode table stored where the next step fetches, and nothing
asserted at the coming boundary: it stands for the loading of a program image from outside (log 42). -/
def State.withFetchWord (s : State) (nbits w : Nat) : State :=
  { s with
    pc := placeAddress s.pc nbits
    mem := s.mem.writeBytes (placeAddress s.pc nbits) (placeBytes (placeAddress s.pc nbits) nbits w)
    memMap := fetchableMap s.memMap (placeAddress s.pc nbits)
    inputs := quietNext s.inputs }

end Sys2Proof.Machine
end

