-- ==== Sys2Proof/Safety.lean ====
section
/-! DEFINITION. What counts as a good state and a good step, in the terms the statements use: the
invariant, what an instruction changes and what it leaves alone, the two exception entries, the exact
values that floating-point results are measured by, and which instructions may write which state. -/

namespace Sys2Proof.Machine

/-- The invariant of the hardware's states: memory in canonical form (the model's own form), bit [0] of
the pc is 0 (spec/10_state.md R65), bit [0] of BPC is 0 (R46). -/
structure State.Inv (s : State) : Prop where
  memory : s.mem.wf = true
  pcEven : s.pc.getLsbD 0 = false
  bpcEven : s.bpc.getLsbD 0 = false

/-- The instruction runs: it answers a next state, of which `P` holds. -/
def Runs (i : Instr) (s : State) (P : State → Prop) : Prop := ∃ t, exec i s = .next t ∧ P t

/-- Every byte of memory reads as before. -/
def SameMemory (s t : State) : Prop := ∀ a, t.mem.readByte a = s.mem.readByte a

/-- What an instruction may write outside the register file and the pc. -/
inductive Piece where
  | psw
  | fpsr
  | bpc
  | acc
  | lock
  | mem
  | device
deriving DecidableEq, Repr

/-- Everything but the pieces listed, the general registers and the pc is as before; the model's own
fields always are. -/
structure Frame (written : List Piece) (s t : State) : Prop where
  psw : Piece.psw ∉ written → t.psw = s.psw
  fpsr : Piece.fpsr ∉ written → t.fpsr = s.fpsr
  bpc : Piece.bpc ∉ written → t.bpc = s.bpc
  acc : Piece.acc ∉ written → t.acc = s.acc
  lock : Piece.lock ∉ written → t.lock = s.lock
  mem : Piece.mem ∉ written → SameMemory s t
  device : Piece.device ∉ written → t.device = s.device
  vectors : t.vectors = s.vectors
  memMap : t.memMap = s.memMap
  inputs : t.inputs = s.inputs
  drawIndex : t.drawIndex = s.drawIndex

/-- R0 to R14, SPI and SPU are as before. -/
structure RegsKept (s t : State) : Prop where
  gprs : t.gprs = s.gprs
  spi : t.spi = s.spi
  spu : t.spu = s.spu

/-- No register but those of `ds` changes: the other general registers read as before, and so does each
stack pointer that none of `ds` names under the stack mode of `s`. -/
structure OnlyRegs (ds : List Reg) (s t : State) : Prop where
  others : ∀ r, r ∉ ds → t.readReg r = s.readReg r
  spi : (15 : Reg) ∉ ds ∨ s.psw.sm = true → t.spi = s.spi
  spu : (15 : Reg) ∉ ds ∨ s.psw.sm = false → t.spu = s.spu

/-- Register `d` holds `v` and nothing else changes but the pc. -/
structure RegResult (d : Reg) (v : Word) (s t : State) : Prop where
  value : t.readReg d = v
  regs : OnlyRegs [d] s t
  frame : Frame [] s t

/-- Register `d` holds `v`, C is `c`, and nothing else changes but the pc. -/
structure RegFlagResult (d : Reg) (v : Word) (c : Bool) (s t : State) : Prop where
  value : t.readReg d = v
  flag : t.psw = { s.psw with c := c }
  regs : OnlyRegs [d] s t
  frame : Frame [.psw] s t

/-- C is `c`, no register changes, and nothing else changes but the pc. -/
structure FlagResult (c : Bool) (s t : State) : Prop where
  flag : t.psw = { s.psw with c := c }
  regs : RegsKept s t
  frame : Frame [.psw] s t

/-- The accumulator holds `v`, no register changes, and nothing else changes but the pc. -/
structure AccResult (v : BitVec 56) (s t : State) : Prop where
  acc : t.acc = v
  regs : RegsKept s t
  frame : Frame [.acc] s t

/-- Nothing changes but the pc, which is `target`. -/
structure OnlyPc (target : Word) (s t : State) : Prop where
  pc : t.pc = target
  regs : RegsKept s t
  frame : Frame [] s t

/-- R14 holds `link`, the pc is `target`, and nothing else changes. -/
structure LinkResult (link target : Word) (s t : State) : Prop where
  link : t.readReg 14 = link
  regs : OnlyRegs [14] s t
  pc : t.pc = target
  frame : Frame [] s t

/-- `v` is what a read of access `n` at `a` gives, where memory stores `stored`: that value from RAM and
ROM, the device's answer, and with nothing mapped a free value (R96, R103). -/
def ReadGives {w : Nat} (s : State) (a : Word) (n : Access) (stored v : BitVec w) : Prop :=
  match s.holding a with
  | .ram => v = stored
  | .rom => v = stored
  | .device => v = (Config.deviceRead s.drawIndex s.device a n).setWidth w
  | .nothing => v = (Config.nothingRead s.drawIndex a n).setWidth w

/-- The devices' state after a read of access `n` at `a`: the side effect of a device's read function, and
nothing where no device is (R96, R103). -/
def deviceAfter (s : State) (a : Word) (n : Access) : Nat :=
  if s.holding a = .device then Config.deviceAfterRead s.drawIndex s.device a n else s.device

/-- Register `d` holds what a read of access `n` at `a` gives, extended by `ext`; a device there may
change by the read, and nothing else changes but the pc and the pieces of `written`. -/
structure LoadResult {w : Nat} (d : Reg) (ext : BitVec w → Word) (a : Word) (n : Access) (stored : BitVec w)
    (written : List Piece) (s t : State) : Prop where
  value : ∃ v, ReadGives s a n stored v ∧ t.readReg d = ext v
  device : t.device = deviceAfter s a n
  regs : OnlyRegs [d] s t
  frame : Frame (.device :: written) s t

/-- The word at `ea` holds `v`, most significant byte first, and every other byte reads as before. -/
structure WordStored (ea v : Word) (s t : State) : Prop where
  byte0 : t.mem.readByte ea = v.extractLsb' 24 8
  byte1 : t.mem.readByte (ea + 1) = v.extractLsb' 16 8
  byte2 : t.mem.readByte (ea + 2) = v.extractLsb' 8 8
  byte3 : t.mem.readByte (ea + 3) = v.extractLsb' 0 8
  others : ∀ a, a ≠ ea → a ≠ ea + 1 → a ≠ ea + 2 → a ≠ ea + 3 → t.mem.readByte a = s.mem.readByte a

/-- The halfword at `ea` holds `v`, most significant byte first, and every other byte reads as before. -/
structure HalfStored (ea : Word) (v : Half) (s t : State) : Prop where
  byte0 : t.mem.readByte ea = v.extractLsb' 8 8
  byte1 : t.mem.readByte (ea + 1) = v.extractLsb' 0 8
  others : ∀ a, a ≠ ea → a ≠ ea + 1 → t.mem.readByte a = s.mem.readByte a

/-- The byte at `ea` is `v`, and every other byte reads as before. -/
structure ByteStored (ea : Word) (v : Byte) (s t : State) : Prop where
  byte : t.mem.readByte ea = v
  others : ∀ a, a ≠ ea → t.mem.readByte a = s.mem.readByte a

/-- A write of `v` by access `n` at `a` had its effect: in RAM the bytes are `stored`; ROM and an address
with nothing mapped change nothing; a device takes the write, and every byte of memory reads as before (R97). -/
def WriteEffect (a : Word) (n : Access) (v : Word) (stored : Prop) (s t : State) : Prop :=
  match s.holding a with
  | .ram => stored ∧ t.device = s.device
  | .rom => SameMemory s t ∧ t.device = s.device
  | .device => SameMemory s t ∧ t.device = Config.deviceAfterWrite s.drawIndex s.device a n v
  | .nothing => SameMemory s t ∧ t.device = s.device

/-- A word written at `ea` (R97). -/
def WordWritten (ea v : Word) (s t : State) : Prop := WriteEffect ea .word v (WordStored ea v s t) s t

/-- A halfword written at `ea` (R97). -/
def HalfWritten (ea : Word) (v : Half) (s t : State) : Prop :=
  WriteEffect ea .half (v.zeroExtend 32) (HalfStored ea v s t) s t

/-- A byte written at `ea` (R97). -/
def ByteWritten (ea : Word) (v : Byte) (s t : State) : Prop :=
  WriteEffect ea .byte (v.zeroExtend 32) (ByteStored ea v s t) s t

/-- A byte at `ea` was read and `f` of it written back (R96, R97): in RAM the byte changes; ROM and an
address with nothing mapped change nothing; a device takes the read and then the write. -/
def ByteModified (ea : Word) (f : Byte → Byte) (s t : State) : Prop :=
  match s.holding ea with
  | .ram => ByteStored ea (f (s.mem.readByte ea)) s t ∧ t.device = s.device
  | .rom => SameMemory s t ∧ t.device = s.device
  | .device => SameMemory s t ∧ t.device =
      Config.deviceAfterWrite s.drawIndex (Config.deviceAfterRead s.drawIndex s.device ea .byte) ea .byte
        ((f ((Config.deviceRead s.drawIndex s.device ea .byte).setWidth 8)).zeroExtend 32)
  | .nothing => SameMemory s t ∧ t.device = s.device

/-- A store that changes only memory and devices: no register, and nothing else but the pc. -/
structure StoreOnly (s t : State) : Prop where
  regs : RegsKept s t
  frame : Frame [.mem, .device] s t

/-- A store that also updates its base register `b` to `v`. -/
structure StoreUpdate (b : Reg) (v : Word) (s t : State) : Prop where
  base : t.readReg b = v
  regs : OnlyRegs [b] s t
  frame : Frame [.mem, .device] s t

/-- The entry of an event was taken: SM, IE and C saved, IE and C cleared, SM as given, BPC as given, the
pc at the entry, every register and every byte of memory as before. Only the pieces of `written` may
differ besides BPC and PSW. -/
structure Entered (vector savedPc : Word) (sm : Bool) (written : List Piece) (s t : State) : Prop where
  bpc : t.bpc = savedPc
  bsm : t.psw.bsm = s.psw.sm
  bie : t.psw.bie = s.psw.ie
  bc : t.psw.bc = s.psw.c
  sm : t.psw.sm = sm
  ie : t.psw.ie = false
  c : t.psw.c = false
  pc : t.pc = vector
  regs : RegsKept s t
  frame : Frame (.psw :: .bpc :: written) s t

/-- The address exception was taken: BPC is the instruction's own address (R502, R512). -/
def AddressTrap (s t : State) : Prop :=
  Entered (s.vectors.ae ++ (0 : BitVec 2)) (s.pc &&& 0xFFFFFFFE) s.psw.sm [] s t

/-- The cause bits show exactly what was detected (R405). -/
structure CausesShow (x : Detected) (f : Fpsr) : Prop where
  ce : f.ce = x.uipl
  cx : f.cx = x.ixct
  cu : f.cu = x.udf
  cz : f.cz = x.div0
  co : f.co = x.ovf
  cv : f.cv = x.ivld

/-- The enables, DN and RM are as before (R405 writes none of them). -/
structure FpModesKept (f g : Fpsr) : Prop where
  ex : g.ex = f.ex
  eu : g.eu = f.eu
  ez : g.ez = f.ez
  eo : g.eo = f.eo
  ev : g.ev = f.ev
  dn : g.dn = f.dn
  rm : g.rm = f.rm

/-- The sticky flags are the old ones and what was detected (R405). -/
structure FlagsGrow (x : Detected) (f g : Fpsr) : Prop where
  fx : g.fx = (f.fx || x.ixct)
  fu : g.fu = (f.fu || x.udf)
  fz : g.fz = (f.fz || x.div0)
  fo : g.fo = (f.fo || x.ovf)
  fv : g.fv = (f.fv || x.ivld)

/-- The sticky flags are as before (R405). -/
structure FlagsKept (f g : Fpsr) : Prop where
  fx : g.fx = f.fx
  fu : g.fu = f.fu
  fz : g.fz = f.fz
  fo : g.fo = f.fo
  fv : g.fv = f.fv

/-- A detected exception raises FPE: it is UIPL, or its enable bit is 1 (R405). -/
def FpRaises (f : Fpsr) (x : Detected) : Prop :=
  x.uipl = true ∨ (x.ivld = true ∧ f.ev = true) ∨ (x.div0 = true ∧ f.ez = true) ∨
    (x.ovf = true ∧ f.eo = true) ∨ (x.udf = true ∧ f.eu = true) ∨ (x.ixct = true ∧ f.ex = true)

/-- A floating-point instruction completed: the value in `d`, the causes set, the flags grown, and
nothing else changed but the pc (R405). -/
structure FpCompleted (d : Reg) (x : FpResult) (s t : State) : Prop where
  value : t.readReg d = x.value
  causes : CausesShow x.detected t.fpsr
  flags : FlagsGrow x.detected s.fpsr t.fpsr
  modes : FpModesKept s.fpsr t.fpsr
  regs : OnlyRegs [d] s t
  frame : Frame [.fpsr] s t

/-- A floating-point instruction raised FPE: no register written, the causes set, the flags unchanged, BPC
the next instruction's address (R405, R503, R512). -/
structure FpTrapped (x : Detected) (s t : State) : Prop where
  entry : Entered (s.vectors.fpe ++ (0 : BitVec 2)) ((s.pc + 4) &&& 0xFFFFFFFE) s.psw.sm [.fpsr] s t
  causes : CausesShow x t.fpsr
  flags : FlagsKept s.fpsr t.fpsr
  modes : FpModesKept s.fpsr t.fpsr

/-- The commit of a floating-point instruction with result `x` (R405): it completes when nothing that it
detects raises FPE, else it takes the exception. -/
structure FpCommits (i : Instr) (d : Reg) (x : FpResult) (s : State) : Prop where
  completes : ¬ FpRaises s.fpsr x.detected → Runs i s (FpCompleted d x s)
  traps : FpRaises s.fpsr x.detected → Runs i s (FpTrapped x.detected s)

/-- Every floating-point exception is masked: the five enables are 0 and DN is 1, as after reset (R562). -/
structure FpMasked (f : Fpsr) : Prop where
  ex : f.ex = false
  eu : f.eu = false
  ez : f.ez = false
  eo : f.eo = false
  ev : f.ev = false
  dn : f.dn = true

/-- The value of a finite word (R400, R401). -/
def fpValue (x : Word) : ℚ :=
  (if x.getLsbD 31 then -1 else 1) *
    (if x.extractLsb' 23 8 = 0 then ((x.extractLsb' 0 23).toNat : ℚ) / 2 ^ 149
      else (1 + ((x.extractLsb' 0 23).toNat : ℚ) / 2 ^ 23) * (2 : ℚ) ^ (((x.extractLsb' 23 8).toNat : Int) - 127))

/-- The number that an exact value stands for. -/
def Exact.value (v : Exact) : ℚ := (if v.neg then -1 else 1) * ((v.num : ℚ) / v.den)

/-- `v` stands for the non-zero number `q`. -/
def Exact.Means (v : Exact) (q : ℚ) : Prop := v.num ≠ 0 ∧ v.den ≠ 0 ∧ v.value = q

/-- `n` is `q ≥ 0` rounded to an integer in the direction that `rm` gives to a value of that sign (R403). -/
def RoundsToInteger (rm : RoundingMode) (neg : Bool) (q : ℚ) (n : Nat) : Prop :=
  match rm with
  | .nearest => |q - n| ≤ 1 / 2 ∧ (|q - n| = 1 / 2 → n % 2 = 0)
  | .towardZero => (n : ℚ) ≤ q ∧ q < n + 1
  | .towardPlusInf => if neg then (n : ℚ) ≤ q ∧ q < n + 1 else (n : ℚ) - 1 < q ∧ q ≤ n
  | .towardMinusInf => if neg then (n : ℚ) - 1 < q ∧ q ≤ n else (n : ℚ) ≤ q ∧ q < n + 1

/-- `y` is what `round24(rm, v)` returns (R403), `e` and `n` being its E and n before n = 2^24 is renormalized. -/
structure RoundsTo (rm : RoundingMode) (v : ℚ) (y : Rounded) (e : Int) (n : Nat) : Prop where
  sign : y.neg = decide (v < 0)
  atLeast : (2 : ℚ) ^ e ≤ |v|
  below : |v| < (2 : ℚ) ^ (e + 1)
  rounded : RoundsToInteger rm y.neg (|v| * (2 : ℚ) ^ (23 - e)) n
  plain : n ≠ 2 ^ 24 → y.exponent = e ∧ y.sig = n
  carried : n = 2 ^ 24 → y.exponent = e + 1 ∧ y.sig = 2 ^ 23
  inexact : y.inexact = decide ((n : ℚ) * (2 : ℚ) ^ (e - 23) ≠ |v|)

/-- The number that a rounded value stands for. -/
def Rounded.value (y : Rounded) : ℚ := (if y.neg then -1 else 1) * ((y.sig : ℚ) * (2 : ℚ) ^ (y.exponent - 23))

/-- `a` is below `b` in the order of the compares, neither of them a NaN (R459). -/
def FpBelow (a b : Word) : Prop :=
  a ≠ b ∧ (a = 0xFF800000 ∨ b = 0x7F800000 ∨
    (fpClass a ≠ .infinity ∧ fpClass b ≠ .infinity ∧ fpValue a < fpValue b))

/-- The "invalid" word of a compare (R457). -/
def InvalidWord (r : Word) : Prop := r.getLsbD 31 = false ∧ r.extractLsb' 22 9 = 0x1FF

/-- The "greater" word of a compare (R457). -/
def GreaterWord (r : Word) : Prop := r.getLsbD 31 = false ∧ r ≠ 0 ∧ r.extractLsb' 22 9 ≠ 0x1FF

/-- The "less" word of a compare (R457). -/
def LessWord (r : Word) : Prop := r.getLsbD 31 = true

/-- An instruction has this code: the encoder writes it and the decoder reads it back. -/
def HasCode (i : Instr) (c : Code) : Prop := encode i = c ∧ decodeCode c = .ok i

/-- The instruction's code is the halfword with these four positions. -/
def Code16 (i : Instr) (op1 r1 op2 r2 : BitVec 4) : Prop := HasCode i (.half (op1 ++ r1 ++ op2 ++ r2))

/-- The instruction's code is the halfword with these positions and an 8-bit constant. -/
def Code16Byte (i : Instr) (op1 r1 : BitVec 4) (c : BitVec 8) : Prop := HasCode i (.half (op1 ++ r1 ++ c))

/-- The instruction's code is the halfword with these positions and a 5-bit count. -/
def Code16Count (i : Instr) (op1 r1 : BitVec 4) (op2 : BitVec 3) (c : BitVec 5) : Prop :=
  HasCode i (.half (op1 ++ r1 ++ op2 ++ c))

/-- The instruction's code is the word with these positions and this low-order halfword. -/
def Code32 (i : Instr) (op1 r1 op2 r2 : BitVec 4) (c : Half) : Prop :=
  HasCode i (.word (op1 ++ r1 ++ op2 ++ r2 ++ c))

/-- The instruction's code is the word with these positions and a 24-bit constant. -/
def Code32Long (i : Instr) (op1 r1 : BitVec 4) (c : BitVec 24) : Prop := HasCode i (.word (op1 ++ r1 ++ c))

/-- The code of a floating-point instruction (R134). -/
def CodeFp (i : Instr) (r1 r2 op3 d op4 : BitVec 4) : Prop :=
  HasCode i (.word ((0xD : BitVec 4) ++ r1 ++ (0 : BitVec 4) ++ r2 ++ op3 ++ d ++ op4 ++ (0 : BitVec 4)))

end Sys2Proof.Machine

namespace Sys2Proof

/-- Whether an instruction sets the pc itself: the branches, the jumps, TRAP and RTE (R66). -/
def Instr.transfers : Instr → Bool
  | .bc8 _ | .bc24 _ | .bl8 _ | .bl24 _ | .bnc8 _ | .bnc24 _ | .bra8 _ | .bra24 _ => true
  | .beq .. | .bne .. | .beqz .. | .bnez .. | .bltz .. | .bgez .. | .blez .. | .bgtz .. => true
  | .jl _ | .jmp _ | .trap _ | .rte => true
  | _ => false

/-- Whether an instruction writes the C bit as a result (R43). -/
def Instr.writesC : Instr → Bool
  | .addv .. | .addv3 .. | .addx .. | .subv .. | .subx .. => true
  | .cmp .. | .cmpi .. | .cmpu .. | .cmpui .. | .btst .. => true
  | .setpsw imm => imm.getLsbD 0
  | .clrpsw imm => imm.getLsbD 0
  | .mvtc _ cr => cr = 0
  | .rte | .trap _ => true
  | _ => false

/-- Whether an instruction writes the accumulator (R61, R62). -/
def Instr.writesAcc : Instr → Bool
  | .mul .. | .mulhi .. | .mullo .. | .mulwhi .. | .mulwlo .. => true
  | .machi .. | .maclo .. | .macwhi .. | .macwlo .. | .mvtachi _ | .mvtaclo _ | .rac | .rach => true
  | _ => false

/-- Whether an instruction writes the LOCK bit (R70). -/
def Instr.writesLock : Instr → Bool
  | .lock .. | .unlock .. | .bset .. | .bclr .. => true
  | _ => false

/-- Whether an instruction writes memory (R100). -/
def Instr.writesMemory : Instr → Bool
  | .stInd .. | .stPreInc .. | .stPreDec .. | .stDisp .. | .stbInd .. | .stbDisp .. => true
  | .sthInd .. | .sthPostInc .. | .sthDisp .. | .unlock .. | .bset .. | .bclr .. => true
  | _ => false

/-- Whether an instruction reads memory as data (R100). -/
def Instr.readsMemory : Instr → Bool
  | .ldInd .. | .ldPostInc .. | .ldDisp .. | .ldbInd .. | .ldbDisp .. | .ldubInd .. | .ldubDisp .. => true
  | .ldhInd .. | .ldhDisp .. | .lduhInd .. | .lduhDisp .. | .lock .. | .bset .. | .bclr .. => true
  | _ => false

/-- Whether an instruction is one of the twelve floating-point instructions (R406). -/
def Instr.isFloat : Instr → Bool
  | .fadd .. | .fsub .. | .fmul .. | .fdiv .. | .fmadd .. | .fmsub .. => true
  | .itof .. | .utof .. | .ftoi .. | .ftos .. | .fcmp .. | .fcmpe .. => true
  | _ => false

/-- Whether an instruction writes the FPSR (R53, R55). -/
def Instr.writesFpsr : Instr → Bool
  | .mvtc _ cr => cr = 7
  | i => i.isFloat

/-- Whether an instruction can find its address misaligned: the nine mnemonics of R95. -/
def Instr.raisesAe : Instr → Bool
  | .ldInd .. | .ldPostInc .. | .ldDisp .. | .ldhInd .. | .ldhDisp .. | .lduhInd .. | .lduhDisp .. => true
  | .lock .. | .unlock .. | .stInd .. | .stPreInc .. | .stPreDec .. | .stDisp .. => true
  | .sthInd .. | .sthPostInc .. | .sthDisp .. => true
  | _ => false

end Sys2Proof
end

