-- ==== Sys2Proof/Certificates/Slice0/Obligations.lean ====
section
/-! DEFINITION. The statements for the provers, family by family. `R<n>` is a rule of spec/. A statement
about an instruction says its encoding, that it runs from every state that meets the stated premises,
the value of everything it writes, and that nothing else changes; the pc of the instructions that do not
set it is `Obligations.PcAdvances`. -/

open Sys2Proof Sys2Proof.Machine

/-! ## Arithmetic, logic, compares (spec/42_compare_arith_logic.md) -/

/-- ADD, ADD3, ADDI, NEG, SUB: encoding, result modulo 2^32, frame (R255, R256, R257, R261, R262). -/
def Obligations.PlainArithmetic : Prop :=
  ∀ (d r : Reg) (imm : BitVec 16) (imm8 : BitVec 8) (s : State),
    (Code16 (.add d r) 0x0 (.ofFin d) 0xA (.ofFin r) ∧
      Runs (.add d r) s (RegResult d (s.readReg d + s.readReg r) s)) ∧
    (Code32 (.add3 d r imm) 0x8 (.ofFin d) 0xA (.ofFin r) imm ∧
      Runs (.add3 d r imm) s (RegResult d (s.readReg r + imm.signExtend 32) s)) ∧
    (Code16Byte (.addi d imm8) 0x4 (.ofFin d) imm8 ∧
      Runs (.addi d imm8) s (RegResult d (s.readReg d + imm8.signExtend 32) s)) ∧
    (Code16 (.neg d r) 0x0 (.ofFin d) 0x3 (.ofFin r) ∧
      Runs (.neg d r) s (RegResult d (0 - s.readReg r) s)) ∧
    (Code16 (.sub d r) 0x0 (.ofFin d) 0x2 (.ofFin r) ∧
      Runs (.sub d r) s (RegResult d (s.readReg d - s.readReg r) s))

/-- ADDV, ADDV3, SUBV: the wrapped result is written and C is signed overflow of the exact result (R258,
R259, R263). -/
def Obligations.OverflowArithmetic : Prop :=
  ∀ (d r : Reg) (imm : BitVec 16) (s : State),
    (Code16 (.addv d r) 0x0 (.ofFin d) 0x8 (.ofFin r) ∧
      Runs (.addv d r) s
        (RegFlagResult d (s.readReg d + s.readReg r)
          (decide ((s.readReg d).toInt + (s.readReg r).toInt < -2 ^ 31 ∨
            2 ^ 31 - 1 < (s.readReg d).toInt + (s.readReg r).toInt)) s)) ∧
    (Code32 (.addv3 d r imm) 0x8 (.ofFin d) 0x8 (.ofFin r) imm ∧
      Runs (.addv3 d r imm) s
        (RegFlagResult d (s.readReg r + imm.signExtend 32)
          (decide ((s.readReg r).toInt + imm.toInt < -2 ^ 31 ∨
            2 ^ 31 - 1 < (s.readReg r).toInt + imm.toInt)) s)) ∧
    (Code16 (.subv d r) 0x0 (.ofFin d) 0x0 (.ofFin r) ∧
      Runs (.subv d r) s
        (RegFlagResult d (s.readReg d - s.readReg r)
          (decide ((s.readReg d).toInt - (s.readReg r).toInt < -2 ^ 31 ∨
            2 ^ 31 - 1 < (s.readReg d).toInt - (s.readReg r).toInt)) s))

/-- ADDX, SUBX: C is the carry or borrow in, and the carry or borrow out of the exact unsigned result
(R260, R264). -/
def Obligations.CarryArithmetic : Prop :=
  ∀ (d r : Reg) (s : State),
    (Code16 (.addx d r) 0x0 (.ofFin d) 0x9 (.ofFin r) ∧
      Runs (.addx d r) s
        (RegFlagResult d (.ofNat 32 ((s.readReg d).toNat + (s.readReg r).toNat + s.psw.c.toNat))
          (decide (2 ^ 32 ≤ (s.readReg d).toNat + (s.readReg r).toNat + s.psw.c.toNat)) s)) ∧
    (Code16 (.subx d r) 0x0 (.ofFin d) 0x1 (.ofFin r) ∧
      Runs (.subx d r) s
        (RegFlagResult d (.ofInt 32 (((s.readReg d).toNat : Int) - (s.readReg r).toNat - s.psw.c.toNat))
          (decide (((s.readReg d).toNat : Int) - (s.readReg r).toNat - s.psw.c.toNat < 0)) s))

/-- AND, AND3, NOT, OR, OR3, XOR, XOR3: bitwise, immediates zero-extended (R265 to R271). -/
def Obligations.LogicOperations : Prop :=
  ∀ (d r : Reg) (imm : BitVec 16) (s : State),
    (Code16 (.and d r) 0x0 (.ofFin d) 0xC (.ofFin r) ∧
      Runs (.and d r) s (RegResult d (s.readReg d &&& s.readReg r) s)) ∧
    (Code32 (.and3 d r imm) 0x8 (.ofFin d) 0xC (.ofFin r) imm ∧
      Runs (.and3 d r imm) s (RegResult d (s.readReg r &&& imm.zeroExtend 32) s)) ∧
    (Code16 (.not d r) 0x0 (.ofFin d) 0xB (.ofFin r) ∧
      Runs (.not d r) s (RegResult d (0xFFFFFFFF - s.readReg r) s)) ∧
    (Code16 (.or d r) 0x0 (.ofFin d) 0xE (.ofFin r) ∧
      Runs (.or d r) s (RegResult d (s.readReg d ||| s.readReg r) s)) ∧
    (Code32 (.or3 d r imm) 0x8 (.ofFin d) 0xE (.ofFin r) imm ∧
      Runs (.or3 d r imm) s (RegResult d (s.readReg r ||| imm.zeroExtend 32) s)) ∧
    (Code16 (.xor d r) 0x0 (.ofFin d) 0xD (.ofFin r) ∧
      Runs (.xor d r) s (RegResult d (s.readReg d ^^^ s.readReg r) s)) ∧
    (Code32 (.xor3 d r imm) 0x8 (.ofFin d) 0xD (.ofFin r) imm ∧
      Runs (.xor3 d r imm) s (RegResult d (s.readReg r ^^^ imm.zeroExtend 32) s))

/-- CMP, CMPI, CMPU, CMPUI: C is less-than of the exact values, and nothing else is written (R251 to
R254). -/
def Obligations.Compares : Prop :=
  ∀ (a b : Reg) (imm : BitVec 16) (s : State),
    (Code16 (.cmp a b) 0x0 (.ofFin a) 0x4 (.ofFin b) ∧
      Runs (.cmp a b) s (FlagResult (decide ((s.readReg a).toInt < (s.readReg b).toInt)) s)) ∧
    (Code32 (.cmpi b imm) 0x8 0x0 0x4 (.ofFin b) imm ∧
      Runs (.cmpi b imm) s (FlagResult (decide ((s.readReg b).toInt < imm.toInt)) s)) ∧
    (Code16 (.cmpu a b) 0x0 (.ofFin a) 0x5 (.ofFin b) ∧
      Runs (.cmpu a b) s (FlagResult (decide ((s.readReg a).toNat < (s.readReg b).toNat)) s)) ∧
    (Code32 (.cmpui b imm) 0x8 0x0 0x5 (.ofFin b) imm ∧
      Runs (.cmpui b imm) s (FlagResult (decide ((s.readReg b).toNat < (imm.signExtend 32).toNat)) s))

/-! ## Multiply, divide, shift (spec/43_muldiv_shift.md) -/

/-- DIVU, REMU: unsigned quotient and remainder, and a zero divisor leaves Rdest unchanged (R292, R295). -/
def Obligations.DivideUnsigned : Prop :=
  ∀ (d r : Reg) (s : State),
    (Code32 (.divu d r) 0x9 (.ofFin d) 0x1 (.ofFin r) 0 ∧
      Runs (.divu d r) s
        (RegResult d
          (if s.readReg r = 0 then s.readReg d
            else .ofNat 32 ((s.readReg d).toNat / (s.readReg r).toNat)) s)) ∧
    (Code32 (.remu d r) 0x9 (.ofFin d) 0x3 (.ofFin r) 0 ∧
      Runs (.remu d r) s
        (RegResult d
          (if s.readReg r = 0 then s.readReg d
            else .ofNat 32 ((s.readReg d).toNat % (s.readReg r).toNat)) s))

/-- DIV, REM: the quotient rounded toward zero and the remainder of the dividend's sign; a zero divisor
leaves Rdest unchanged (R291, R294). That -2^31 by -1 writes some word and raises nothing is the spec's
decision D15 (log 15). -/
def Obligations.DivideSigned : Prop :=
  ∀ (d r : Reg) (s : State),
    Code32 (.div d r) 0x9 (.ofFin d) 0x0 (.ofFin r) 0 ∧
    Code32 (.rem d r) 0x9 (.ofFin d) 0x2 (.ofFin r) 0 ∧
    (let a := (s.readReg d).toInt
     let b := (s.readReg r).toInt
     let q := a.sign * b.sign * (a.natAbs / b.natAbs : Nat)
     if b = 0 then
       Runs (.div d r) s (RegResult d (s.readReg d) s) ∧ Runs (.rem d r) s (RegResult d (s.readReg d) s)
     else if a = -2 ^ 31 ∧ b = -1 then
       Runs (.div d r) s (fun t => ∃ v, RegResult d v s t) ∧
         Runs (.rem d r) s (fun t => ∃ v, RegResult d v s t)
     else
       Runs (.div d r) s (RegResult d (.ofInt 32 q) s) ∧
         Runs (.rem d r) s (RegResult d (.ofInt 32 (a - b * q)) s))

/-- MUL: the low 32 bits of the signed product; the accumulator ends with some value (R293). -/
def Obligations.Multiply : Prop :=
  ∀ (d r : Reg) (s : State),
    Code16 (.mul d r) 0x1 (.ofFin d) 0x6 (.ofFin r) ∧
    Runs (.mul d r) s (fun t =>
      t.readReg d = .ofInt 32 ((s.readReg d).toInt * (s.readReg r).toInt) ∧
        OnlyRegs [d] s t ∧ Frame [.acc] s t)

/-- The nine shifts: left, arithmetic right as a floor division, logical right, the count from a
register, from imm16 or from imm5, always five bits (R296 to R304). -/
def Obligations.Shifts : Prop :=
  ∀ (d r : Reg) (imm : BitVec 16) (imm5 : BitVec 5) (s : State),
    let n := (s.readReg r).toNat % 32
    let m := imm.toNat % 32
    (Code16 (.sll d r) 0x1 (.ofFin d) 0x4 (.ofFin r) ∧
      Runs (.sll d r) s (RegResult d (.ofNat 32 ((s.readReg d).toNat * 2 ^ n)) s)) ∧
    (Code32 (.sll3 d r imm) 0x9 (.ofFin d) 0xC (.ofFin r) imm ∧
      Runs (.sll3 d r imm) s (RegResult d (.ofNat 32 ((s.readReg r).toNat * 2 ^ m)) s)) ∧
    (Code16Count (.slli d imm5) 0x5 (.ofFin d) 2 imm5 ∧
      Runs (.slli d imm5) s (RegResult d (.ofNat 32 ((s.readReg d).toNat * 2 ^ imm5.toNat)) s)) ∧
    (Code16 (.sra d r) 0x1 (.ofFin d) 0x2 (.ofFin r) ∧
      Runs (.sra d r) s (RegResult d (.ofInt 32 ((s.readReg d).toInt / 2 ^ n)) s)) ∧
    (Code32 (.sra3 d r imm) 0x9 (.ofFin d) 0xA (.ofFin r) imm ∧
      Runs (.sra3 d r imm) s (RegResult d (.ofInt 32 ((s.readReg r).toInt / 2 ^ m)) s)) ∧
    (Code16Count (.srai d imm5) 0x5 (.ofFin d) 1 imm5 ∧
      Runs (.srai d imm5) s (RegResult d (.ofInt 32 ((s.readReg d).toInt / 2 ^ imm5.toNat)) s)) ∧
    (Code16 (.srl d r) 0x1 (.ofFin d) 0x0 (.ofFin r) ∧
      Runs (.srl d r) s (RegResult d (.ofNat 32 ((s.readReg d).toNat / 2 ^ n)) s)) ∧
    (Code32 (.srl3 d r imm) 0x9 (.ofFin d) 0x8 (.ofFin r) imm ∧
      Runs (.srl3 d r imm) s (RegResult d (.ofNat 32 ((s.readReg r).toNat / 2 ^ m)) s)) ∧
    (Code16Count (.srli d imm5) 0x5 (.ofFin d) 0 imm5 ∧
      Runs (.srli d imm5) s (RegResult d (.ofNat 32 ((s.readReg d).toNat / 2 ^ imm5.toNat)) s))

/-! ## Transfer and the control registers (spec/41_transfer.md, spec/10_state.md) -/

/-- LD24, LDI in both forms, MV, SETH: encoding and value (R231 to R234, R237). -/
def Obligations.ConstantsAndMoves : Prop :=
  ∀ (d r : Reg) (imm8 : BitVec 8) (imm : BitVec 16) (imm24 : BitVec 24) (s : State),
    (Code32Long (.ld24 d imm24) 0xE (.ofFin d) imm24 ∧
      Runs (.ld24 d imm24) s (RegResult d (imm24.zeroExtend 32) s)) ∧
    (Code16Byte (.ldi8 d imm8) 0x6 (.ofFin d) imm8 ∧
      Runs (.ldi8 d imm8) s (RegResult d (imm8.signExtend 32) s)) ∧
    (Code32 (.ldi16 d imm) 0x9 (.ofFin d) 0xF 0x0 imm ∧
      Runs (.ldi16 d imm) s (RegResult d (imm.signExtend 32) s)) ∧
    (Code16 (.mv d r) 0x1 (.ofFin d) 0x8 (.ofFin r) ∧ Runs (.mv d r) s (RegResult d (s.readReg r) s)) ∧
    (Code32 (.seth d imm) 0xD (.ofFin d) 0xC 0x0 imm ∧
      Runs (.seth d imm) s (RegResult d (imm.zeroExtend 32 <<< 16) s))

/-- MVFC reads each of the six control registers; its bits that have no function read 0, and
FPSR.RM reads 00, 01, 10, 11 for nearest, zero, +Infinity, -Infinity (R235, with the register layouts of
R39, R44 to R46, R48, R54, R55). Refusing the ten unassigned numbers is the model's choice after
the spec's decision D14 (log 14), the fixed bits' zeros are D13 (log 13). -/
def Obligations.ReadControl : Prop :=
  ∀ (d : Reg) (s : State),
    (∀ cr : CrNum, cr ∈ ([0, 1, 2, 3, 6, 7] : List CrNum) →
      Code16 (.mvfc d cr) 0x1 (.ofFin d) 0x9 (.ofFin cr)) ∧
    Runs (.mvfc d 0) s (RegResult d (.ofNat 32 (s.psw.bsm.toNat * 2 ^ 15 + s.psw.bie.toNat * 2 ^ 14 +
      s.psw.bc.toNat * 2 ^ 8 + s.psw.sm.toNat * 2 ^ 7 + s.psw.ie.toNat * 2 ^ 6 + s.psw.c.toNat)) s) ∧
    Runs (.mvfc d 1) s (RegResult d (.ofNat 32 s.psw.c.toNat) s) ∧
    Runs (.mvfc d 2) s (RegResult d s.spi s) ∧
    Runs (.mvfc d 3) s (RegResult d s.spu s) ∧
    Runs (.mvfc d 6) s (RegResult d (s.bpc &&& 0xFFFFFFFE) s) ∧
    (let f := s.fpsr
     Runs (.mvfc d 7) s (RegResult d (.ofNat 32
       ((f.fu || f.fz || f.fo || f.fv).toNat * 2 ^ 31 + f.fx.toNat * 2 ^ 30 + f.fu.toNat * 2 ^ 29 +
        f.fz.toNat * 2 ^ 28 + f.fo.toNat * 2 ^ 27 + f.fv.toNat * 2 ^ 26 + f.ex.toNat * 2 ^ 14 +
        f.eu.toNat * 2 ^ 13 + f.ez.toNat * 2 ^ 12 + f.eo.toNat * 2 ^ 11 + f.ev.toNat * 2 ^ 10 +
        f.dn.toNat * 2 ^ 8 + f.ce.toNat * 2 ^ 7 + f.cx.toNat * 2 ^ 6 + f.cu.toNat * 2 ^ 5 +
        f.cz.toNat * 2 ^ 4 + f.co.toNat * 2 ^ 3 + f.cv.toNat * 2 ^ 2 +
        (match f.rm with
          | .nearest => 0
          | .towardZero => 1
          | .towardPlusInf => 2
          | .towardMinusInf => 3))) s)) ∧
    (∀ cr : CrNum, cr ∉ ([0, 1, 2, 3, 6, 7] : List CrNum) →
      exec (.mvfc d cr) s = .refused .unassignedControlRegister)

/-- MVTC writes each control register field by field: PSW's six bits, nothing for CBR, SPI, SPU, BPC
without bit [0], and FPSR by R55, its RM 00 for nearest, 01 for zero, 10 for +Infinity, 11 for -Infinity
(R236, R48, R54). Refusing the ten unassigned numbers is the model's choice after the spec's decision D14
(log 14), ignoring the fixed bits D13 (log 13). -/
def Obligations.WriteControl : Prop :=
  ∀ (r : Reg) (s : State),
    (∀ cr : CrNum, cr ∈ ([0, 1, 2, 3, 6, 7] : List CrNum) →
      Code16 (.mvtc r cr) 0x1 (.ofFin cr) 0xA (.ofFin r)) ∧
    (let v := s.readReg r
     Runs (.mvtc r 0) s (fun t =>
       t.psw = { bsm := v.getLsbD 15, bie := v.getLsbD 14, bc := v.getLsbD 8
                 sm := v.getLsbD 7, ie := v.getLsbD 6, c := v.getLsbD 0 } ∧
         RegsKept s t ∧ Frame [.psw] s t) ∧
     Runs (.mvtc r 1) s (fun t => RegsKept s t ∧ Frame [] s t) ∧
     Runs (.mvtc r 2) s (fun t => t.spi = v ∧ t.gprs = s.gprs ∧ t.spu = s.spu ∧ Frame [] s t) ∧
     Runs (.mvtc r 3) s (fun t => t.spu = v ∧ t.gprs = s.gprs ∧ t.spi = s.spi ∧ Frame [] s t) ∧
     Runs (.mvtc r 6) s (fun t => t.bpc = v &&& 0xFFFFFFFE ∧ RegsKept s t ∧ Frame [.bpc] s t) ∧
     Runs (.mvtc r 7) s (fun t =>
       t.fpsr =
         { fx := v.getLsbD 30, fu := v.getLsbD 29, fz := v.getLsbD 28, fo := v.getLsbD 27
           fv := v.getLsbD 26
           ex := v.getLsbD 14, eu := v.getLsbD 13, ez := v.getLsbD 12, eo := v.getLsbD 11
           ev := v.getLsbD 10
           dn := v.getLsbD 8
           ce := s.fpsr.ce && v.getLsbD 7, cx := s.fpsr.cx && v.getLsbD 6
           cu := s.fpsr.cu && v.getLsbD 5, cz := s.fpsr.cz && v.getLsbD 4
           co := s.fpsr.co && v.getLsbD 3, cv := s.fpsr.cv && v.getLsbD 2
           rm :=
             match v.getLsbD 1, v.getLsbD 0 with
             | false, false => .nearest
             | false, true => .towardZero
             | true, false => .towardPlusInf
             | true, true => .towardMinusInf } ∧
         RegsKept s t ∧ Frame [.fpsr] s t)) ∧
    (∀ cr : CrNum, cr ∉ ([0, 1, 2, 3, 6, 7] : List CrNum) →
      exec (.mvtc r cr) s = .refused .unassignedControlRegister)

/-- CBR reads as the C bit with zeros above it, ignores writes, and is 0 after reset (R44). -/
def Obligations.ConditionBitRegister : Prop :=
  (∀ (d r : Reg) (s : State),
    Runs (.mvfc d 1) s (RegResult d (if s.psw.c then 1 else 0) s) ∧
    Runs (.mvtc r 1) s (fun t => RegsKept s t ∧ Frame [] s t)) ∧
  ∀ d : Reg, Runs (.mvfc d 1) State.reset (fun t => t.readReg d = 0)

/-- FS reads as the sum of FU, FZ, FO, FV without FX, and writing it has no effect (R50). -/
def Obligations.FpSummaryBit : Prop :=
  ∀ (d r : Reg) (v : Word) (s : State),
    Runs (.mvfc d 7) s (fun t =>
      (t.readReg d).getLsbD 31 = (s.fpsr.fu || s.fpsr.fz || s.fpsr.fo || s.fpsr.fv)) ∧
    Runs (.mvtc r 7) (s.writeReg r v) (fun t =>
      Runs (.mvtc r 7) (s.writeReg r (v ^^^ 0x80000000)) (fun u => u.fpsr = t.fpsr))

/-- R15 is SPI while SM is 0 and SPU while SM is 1; as CR2 and CR3 both are read and written whatever SM
is (R45). -/
def Obligations.StackPointers : Prop :=
  ∀ (d r : Reg) (v : Word) (s : State),
    s.readReg 15 = (if s.psw.sm then s.spu else s.spi) ∧
    s.writeReg 15 v = (if s.psw.sm then { s with spu := v } else { s with spi := v }) ∧
    Runs (.mvfc d 2) s (RegResult d s.spi s) ∧
    Runs (.mvfc d 3) s (RegResult d s.spu s) ∧
    Runs (.mvtc r 2) s (fun t =>
      t.spi = s.readReg r ∧ t.gprs = s.gprs ∧ t.spu = s.spu ∧ Frame [] s t) ∧
    Runs (.mvtc r 3) s (fun t =>
      t.spu = s.readReg r ∧ t.gprs = s.gprs ∧ t.spi = s.spi ∧ Frame [] s t)

/-! ## Branches (spec/44_branch.md) -/

/-- BC and BNC, short and long: taken by C, relative to the word that holds the branch, else the next
instruction; nothing but the pc changes (R322, R323, R326, R327). -/
def Obligations.BranchOnC : Prop :=
  ∀ (p : BitVec 8) (q : BitVec 24) (s : State),
    let base := s.pc &&& 0xFFFFFFFC
    (Code16Byte (.bc8 p) 0x7 0xC p ∧
      Runs (.bc8 p) s (OnlyPc (if s.psw.c then base + (p.signExtend 32 <<< 2) else s.pc + 2) s)) ∧
    (Code32Long (.bc24 q) 0xF 0xC q ∧
      Runs (.bc24 q) s (OnlyPc (if s.psw.c then base + (q.signExtend 32 <<< 2) else s.pc + 4) s)) ∧
    (Code16Byte (.bnc8 p) 0x7 0xD p ∧
      Runs (.bnc8 p) s (OnlyPc (if s.psw.c then s.pc + 2 else base + (p.signExtend 32 <<< 2)) s)) ∧
    (Code32Long (.bnc24 q) 0xF 0xD q ∧
      Runs (.bnc24 q) s (OnlyPc (if s.psw.c then s.pc + 4 else base + (q.signExtend 32 <<< 2)) s))

/-- BRA and BL, short and long: always taken; BL puts the next word's address in R14 and changes no
other register (R324, R325, R328, R329). -/
def Obligations.BranchAlways : Prop :=
  ∀ (p : BitVec 8) (q : BitVec 24) (s : State),
    let base := s.pc &&& 0xFFFFFFFC
    (Code16Byte (.bra8 p) 0x7 0xF p ∧
      Runs (.bra8 p) s (OnlyPc (base + (p.signExtend 32 <<< 2)) s)) ∧
    (Code32Long (.bra24 q) 0xF 0xF q ∧
      Runs (.bra24 q) s (OnlyPc (base + (q.signExtend 32 <<< 2)) s)) ∧
    (Code16Byte (.bl8 p) 0x7 0xE p ∧
      Runs (.bl8 p) s (LinkResult (base + 4) (base + (p.signExtend 32 <<< 2)) s)) ∧
    (Code32Long (.bl24 q) 0xF 0xE q ∧
      Runs (.bl24 q) s (LinkResult (base + 4) (base + (q.signExtend 32 <<< 2)) s))

/-- The eight compare-and-branch instructions: condition, target, and nothing but the pc changes (R330 to
R333, R336 to R339). -/
def Obligations.CompareAndBranch : Prop :=
  ∀ (a b : Reg) (p : BitVec 16) (s : State),
    let taken := (s.pc &&& 0xFFFFFFFC) + (p.signExtend 32 <<< 2)
    let next := s.pc + 4
    (Code32 (.beq a b p) 0xB (.ofFin a) 0x0 (.ofFin b) p ∧
      Runs (.beq a b p) s (OnlyPc (if s.readReg a = s.readReg b then taken else next) s)) ∧
    (Code32 (.bne a b p) 0xB (.ofFin a) 0x1 (.ofFin b) p ∧
      Runs (.bne a b p) s (OnlyPc (if s.readReg a = s.readReg b then next else taken) s)) ∧
    (Code32 (.beqz b p) 0xB 0x0 0x8 (.ofFin b) p ∧
      Runs (.beqz b p) s (OnlyPc (if s.readReg b = 0 then taken else next) s)) ∧
    (Code32 (.bnez b p) 0xB 0x0 0x9 (.ofFin b) p ∧
      Runs (.bnez b p) s (OnlyPc (if s.readReg b = 0 then next else taken) s)) ∧
    (Code32 (.bltz b p) 0xB 0x0 0xA (.ofFin b) p ∧
      Runs (.bltz b p) s (OnlyPc (if (s.readReg b).toInt < 0 then taken else next) s)) ∧
    (Code32 (.bgez b p) 0xB 0x0 0xB (.ofFin b) p ∧
      Runs (.bgez b p) s (OnlyPc (if 0 ≤ (s.readReg b).toInt then taken else next) s)) ∧
    (Code32 (.blez b p) 0xB 0x0 0xC (.ofFin b) p ∧
      Runs (.blez b p) s (OnlyPc (if (s.readReg b).toInt ≤ 0 then taken else next) s)) ∧
    (Code32 (.bgtz b p) 0xB 0x0 0xD (.ofFin b) p ∧
      Runs (.bgtz b p) s (OnlyPc (if 0 < (s.readReg b).toInt then taken else next) s))

/-- JMP goes to the register without its two low-order bits; JL also puts the next word's address in R14,
and JL R14 goes to the old R14 or to that address, which the spec leaves open, U3 (log 37) (R334, R335). -/
def Obligations.RegisterJumps : Prop :=
  ∀ (r : Reg) (s : State),
    let link := (s.pc &&& 0xFFFFFFFC) + 4
    (Code16 (.jmp r) 0x1 0xF 0xC (.ofFin r) ∧ Runs (.jmp r) s (OnlyPc (s.readReg r &&& 0xFFFFFFFC) s)) ∧
    (Code16 (.jl r) 0x1 0xE 0xC (.ofFin r) ∧
      Runs (.jl r) s (fun t =>
        LinkResult link (s.readReg r &&& 0xFFFFFFFC) s t ∨ (r = 14 ∧ LinkResult link link s t)))

/-- NOP, as H'7000 and as H'F000 in a low-order halfword, does nothing but move the pc by 2 (R136, R340).
That another constant in b8-b15 is no instruction, rather than being ignored, is the spec's decision D5
(R161, log 5): a choice. -/
def Obligations.NoOperation : Prop :=
  Code16 .nop 0x7 0x0 0x0 0x0 ∧
  decodeLowSlot 0xF000 = .ok .nop ∧
  (∀ (c : BitVec 8) (i : Instr), c ≠ 0 → decodeCode (.half ((0x70 : BitVec 8) ++ c)) ≠ .ok i) ∧
  ∀ s : State, Runs .nop s (OnlyPc (s.pc + 2) s)

/-! ## DSP (spec/46_dsp.md) -/

/-- MULHI, MULLO, MULWHI, MULWLO: the accumulator becomes the exact signed product at its place (R361 to
R364). -/
def Obligations.DspMultiply : Prop :=
  ∀ (a b : Reg) (s : State),
    let x := s.readReg a
    let y := s.readReg b
    (Code16 (.mulhi a b) 0x3 (.ofFin a) 0x0 (.ofFin b) ∧
      Runs (.mulhi a b) s
        (AccResult (.ofInt 56 ((x.extractLsb' 16 16).toInt * (y.extractLsb' 16 16).toInt * 2 ^ 16)) s)) ∧
    (Code16 (.mullo a b) 0x3 (.ofFin a) 0x1 (.ofFin b) ∧
      Runs (.mullo a b) s
        (AccResult (.ofInt 56 ((x.extractLsb' 0 16).toInt * (y.extractLsb' 0 16).toInt * 2 ^ 16)) s)) ∧
    (Code16 (.mulwhi a b) 0x3 (.ofFin a) 0x2 (.ofFin b) ∧
      Runs (.mulwhi a b) s (AccResult (.ofInt 56 (x.toInt * (y.extractLsb' 16 16).toInt)) s)) ∧
    (Code16 (.mulwlo a b) 0x3 (.ofFin a) 0x3 (.ofFin b) ∧
      Runs (.mulwlo a b) s (AccResult (.ofInt 56 (x.toInt * (y.extractLsb' 0 16).toInt)) s))

/-- MACHI, MACLO, MACWHI, MACWLO: the product added to the accumulator (R365 to R368). That the sum is
kept modulo 2^56 is the spec's decision D30 (R378, log 29). -/
def Obligations.DspAccumulate : Prop :=
  ∀ (a b : Reg) (s : State),
    let x := s.readReg a
    let y := s.readReg b
    let c := s.acc.toInt
    (Code16 (.machi a b) 0x3 (.ofFin a) 0x4 (.ofFin b) ∧
      Runs (.machi a b) s
        (AccResult (.ofInt 56 (c + (x.extractLsb' 16 16).toInt * (y.extractLsb' 16 16).toInt * 2 ^ 16)) s)) ∧
    (Code16 (.maclo a b) 0x3 (.ofFin a) 0x5 (.ofFin b) ∧
      Runs (.maclo a b) s
        (AccResult (.ofInt 56 (c + (x.extractLsb' 0 16).toInt * (y.extractLsb' 0 16).toInt * 2 ^ 16)) s)) ∧
    (Code16 (.macwhi a b) 0x3 (.ofFin a) 0x6 (.ofFin b) ∧
      Runs (.macwhi a b) s (AccResult (.ofInt 56 (c + x.toInt * (y.extractLsb' 16 16).toInt)) s)) ∧
    (Code16 (.macwlo a b) 0x3 (.ofFin a) 0x7 (.ofFin b) ∧
      Runs (.macwlo a b) s (AccResult (.ofInt 56 (c + x.toInt * (y.extractLsb' 0 16).toInt)) s))

/-- MVFACHI, MVFACLO, MVFACMI read three words of the sign-extended accumulator; MVTACHI, MVTACLO write
24 and 32 of its bits and keep the others (R369 to R373). -/
def Obligations.AccumulatorMoves : Prop :=
  ∀ (d : Reg) (s : State),
    let acc64 := s.acc.signExtend 64
    (Code16 (.mvfachi d) 0x5 (.ofFin d) 0xF 0x0 ∧
      Runs (.mvfachi d) s (RegResult d (acc64.extractLsb' 32 32) s)) ∧
    (Code16 (.mvfaclo d) 0x5 (.ofFin d) 0xF 0x1 ∧
      Runs (.mvfaclo d) s (RegResult d (s.acc.extractLsb' 0 32) s)) ∧
    (Code16 (.mvfacmi d) 0x5 (.ofFin d) 0xF 0x2 ∧
      Runs (.mvfacmi d) s (RegResult d (s.acc.extractLsb' 16 32) s)) ∧
    (Code16 (.mvtachi d) 0x5 (.ofFin d) 0x7 0x0 ∧
      Runs (.mvtachi d) s (AccResult ((s.readReg d).extractLsb' 0 24 ++ s.acc.extractLsb' 0 32) s)) ∧
    (Code16 (.mvtaclo d) 0x5 (.ofFin d) 0x7 0x1 ∧
      Runs (.mvtaclo d) s (AccResult (s.acc.extractLsb' 32 24 ++ s.readReg d) s))

/-- RAC and RACH: shift left by one, add half a unit, saturate, clear the low bits (R374, R375). -/
def Obligations.RoundAccumulator : Prop :=
  ∀ s : State,
    (let t := s.acc.toInt * 2 + 0x8000
     let v := if t > 0x7FFFFFFF0000 then 0x7FFFFFFF0000
       else if t < -0x800000000000 then -0x800000000000 else t - t % 0x10000
     Code16 .rac 0x5 0x0 0x9 0x0 ∧ Runs .rac s (AccResult (.ofInt 56 v) s)) ∧
    (let t := s.acc.toInt * 2 + 0x80000000
     let v := if t > 0x7FFF00000000 then 0x7FFF00000000
       else if t < -0x800000000000 then -0x800000000000 else t - t % 0x100000000
     Code16 .rach 0x5 0x0 0x8 0x0 ∧ Runs .rach s (AccResult (.ofInt 56 v) s))

/-! ## Bit operations (spec/49_bit_operations.md) -/

/-- BSET and BCLR change one bit of one byte of memory, or read and write a device there, and leave the LOCK
bit 0 (R481, R482). ROM and an address with nothing mapped stay as they are, the model's choice (logs 46,
48). The premise is that memory has its canonical form, which every step keeps. -/
def Obligations.BitsInMemory : Prop :=
  ∀ (n : BitVec 3) (disp : BitVec 16) (r : Reg) (s : State), s.mem.wf = true →
    let ea := s.readReg r + disp.signExtend 32
    let mask := (1 : Byte) <<< (7 - n.toNat)
    (Code32 (.bset n disp r) 0xA ((0 : BitVec 1) ++ n) 0x6 (.ofFin r) disp ∧
      Runs (.bset n disp r) s (fun t =>
        ByteModified ea (· ||| mask) s t ∧ t.lock = false ∧ RegsKept s t ∧
          Frame [.mem, .device, .lock] s t)) ∧
    (Code32 (.bclr n disp r) 0xA ((0 : BitVec 1) ++ n) 0x7 (.ofFin r) disp ∧
      Runs (.bclr n disp r) s (fun t =>
        ByteModified ea (· &&& ~~~mask) s t ∧ t.lock = false ∧ RegsKept s t ∧
          Frame [.mem, .device, .lock] s t))

/-- BTST puts the tested bit in C (R483; where the encoding has bitpos is the spec's analogy R144, log
44). SETPSW and CLRPSW set and clear SM, IE and C where the immediate has a 1 (R484, R485); that its other
bits have no effect is the spec's decision D29 (log 28). -/
def Obligations.BitTestAndPswBits : Prop :=
  ∀ (n : BitVec 3) (r : Reg) (imm : BitVec 8) (s : State),
    (Code16 (.btst n r) 0x0 ((0 : BitVec 1) ++ n) 0xF (.ofFin r) ∧
      Runs (.btst n r) s (FlagResult ((s.readReg r).getLsbD (7 - n.toNat)) s)) ∧
    (Code16Byte (.setpsw imm) 0x7 0x1 imm ∧
      Runs (.setpsw imm) s (fun t =>
        t.psw = { s.psw with
          sm := if imm.getLsbD 7 then true else s.psw.sm
          ie := if imm.getLsbD 6 then true else s.psw.ie
          c := if imm.getLsbD 0 then true else s.psw.c } ∧
        RegsKept s t ∧ Frame [.psw] s t)) ∧
    (Code16Byte (.clrpsw imm) 0x7 0x2 imm ∧
      Runs (.clrpsw imm) s (fun t =>
        t.psw = { s.psw with
          sm := if imm.getLsbD 7 then false else s.psw.sm
          ie := if imm.getLsbD 6 then false else s.psw.ie
          c := if imm.getLsbD 0 then false else s.psw.c } ∧
        RegsKept s t ∧ Frame [.psw] s t))

/-! ## Load and store (spec/40_load_store.md). Byte order is the spec's decision D1 (log 1), the wrap of an
address modulo 2^32 is D20 (log 19). What an address that is not RAM does is MEM_MAP's: a device's functions
are the constants of log 47, that ROM ignores writes is log 46, an address with nothing mapped log 48. -/

/-- LD @R, LD @(disp16,R) and LOCK at a word-aligned address: the register gets the word, most significant
byte first, or what MEM_MAP says where the address is not memory; LOCK also sets the LOCK bit (R96, R201,
R203, R212; byte order log 1, MEM_MAP logs 22, 47, 48). -/
def Obligations.LoadWord : Prop :=
  ∀ (d r : Reg) (disp : BitVec 16) (s : State),
    Code16 (.ldInd d r) 0x2 (.ofFin d) 0xC (.ofFin r) ∧
    Code32 (.ldDisp d disp r) 0xA (.ofFin d) 0xC (.ofFin r) disp ∧
    Code16 (.lock d r) 0x2 (.ofFin d) 0xD (.ofFin r) ∧
    (let word := fun a => s.mem.readByte a ++ s.mem.readByte (a + 1) ++ s.mem.readByte (a + 2) ++
       s.mem.readByte (a + 3)
     let ea := s.readReg r
     let ea' := s.readReg r + disp.signExtend 32
     (ea.toNat % 4 = 0 →
       Runs (.ldInd d r) s (LoadResult d id ea .word (word ea) [] s) ∧
       Runs (.lock d r) s (fun t => LoadResult d id ea .word (word ea) [.lock] s t ∧ t.lock = true)) ∧
     (ea'.toNat % 4 = 0 → Runs (.ldDisp d disp r) s (LoadResult d id ea' .word (word ea') [] s)))

/-- LD @R+ at a word-aligned address: the word is loaded and the base incremented by 4; with one register
for both, that register ends with some value and nothing else changes (R96, R202, R223; byte order log 1,
the wrap of the increment log 19, MEM_MAP logs 22, 47, 48). -/
def Obligations.LoadPostIncrement : Prop :=
  ∀ (d r : Reg) (s : State),
    let ea := s.readReg r
    Code16 (.ldPostInc d r) 0x2 (.ofFin d) 0xE (.ofFin r) ∧
    (ea.toNat % 4 = 0 →
      Runs (.ldPostInc d r) s (fun t =>
        OnlyRegs [d, r] s t ∧ t.device = deviceAfter s ea .word ∧ Frame [.device] s t ∧
        (d ≠ r →
          ReadGives s ea .word
            (s.mem.readByte ea ++ s.mem.readByte (ea + 1) ++ s.mem.readByte (ea + 2) ++
              s.mem.readByte (ea + 3)) (t.readReg d) ∧
          t.readReg r = ea + 4)))

/-- LDB, LDUB at any address and LDH, LDUH at an even one: the byte or halfword, sign- or zero-extended
(R96, R204 to R211; byte order log 1, MEM_MAP logs 22, 47, 48). -/
def Obligations.LoadNarrow : Prop :=
  ∀ (d r : Reg) (disp : BitVec 16) (s : State),
    let ea := s.readReg r
    let ea' := s.readReg r + disp.signExtend 32
    let half := fun a => s.mem.readByte a ++ s.mem.readByte (a + 1)
    (Code16 (.ldbInd d r) 0x2 (.ofFin d) 0x8 (.ofFin r) ∧
      Runs (.ldbInd d r) s (LoadResult d (·.signExtend 32) ea .byte (s.mem.readByte ea) [] s)) ∧
    (Code32 (.ldbDisp d disp r) 0xA (.ofFin d) 0x8 (.ofFin r) disp ∧
      Runs (.ldbDisp d disp r) s (LoadResult d (·.signExtend 32) ea' .byte (s.mem.readByte ea') [] s)) ∧
    (Code16 (.ldubInd d r) 0x2 (.ofFin d) 0x9 (.ofFin r) ∧
      Runs (.ldubInd d r) s (LoadResult d (·.zeroExtend 32) ea .byte (s.mem.readByte ea) [] s)) ∧
    (Code32 (.ldubDisp d disp r) 0xA (.ofFin d) 0x9 (.ofFin r) disp ∧
      Runs (.ldubDisp d disp r) s (LoadResult d (·.zeroExtend 32) ea' .byte (s.mem.readByte ea') [] s)) ∧
    (Code16 (.ldhInd d r) 0x2 (.ofFin d) 0xA (.ofFin r) ∧
      (ea.toNat % 2 = 0 →
        Runs (.ldhInd d r) s (LoadResult d (·.signExtend 32) ea .half (half ea) [] s))) ∧
    (Code32 (.ldhDisp d disp r) 0xA (.ofFin d) 0xA (.ofFin r) disp ∧
      (ea'.toNat % 2 = 0 →
        Runs (.ldhDisp d disp r) s (LoadResult d (·.signExtend 32) ea' .half (half ea') [] s))) ∧
    (Code16 (.lduhInd d r) 0x2 (.ofFin d) 0xB (.ofFin r) ∧
      (ea.toNat % 2 = 0 →
        Runs (.lduhInd d r) s (LoadResult d (·.zeroExtend 32) ea .half (half ea) [] s))) ∧
    (Code32 (.lduhDisp d disp r) 0xA (.ofFin d) 0xB (.ofFin r) disp ∧
      (ea'.toNat % 2 = 0 →
        Runs (.lduhDisp d disp r) s (LoadResult d (·.zeroExtend 32) ea' .half (half ea') [] s)))

/-- ST @R and ST @(disp16,R) at a word-aligned address: the four bytes hold the register, every other byte
and every register is unchanged; where the address is not RAM, what MEM_MAP says (R97, R213, R216; byte
order log 1, MEM_MAP logs 22, 46 to 48). The premise is memory's canonical form. -/
def Obligations.StoreWord : Prop :=
  ∀ (a b : Reg) (disp : BitVec 16) (s : State), s.mem.wf = true →
    let ea := s.readReg b
    let ea' := s.readReg b + disp.signExtend 32
    (Code16 (.stInd a b) 0x2 (.ofFin a) 0x4 (.ofFin b) ∧
      (ea.toNat % 4 = 0 →
        Runs (.stInd a b) s (fun t => WordWritten ea (s.readReg a) s t ∧ StoreOnly s t))) ∧
    (Code32 (.stDisp a disp b) 0xA (.ofFin a) 0x4 (.ofFin b) disp ∧
      (ea'.toNat % 4 = 0 →
        Runs (.stDisp a disp b) s (fun t => WordWritten ea' (s.readReg a) s t ∧ StoreOnly s t)))

/-- ST @+R and ST @-R: the address register moves by 4 first, the word is stored at the new address; with
one register for both, the word is the old or the new value (R97, R214, R215, R223; byte order log 1,
MEM_MAP logs 22, 46 to 48). -/
def Obligations.StorePreModify : Prop :=
  ∀ (a b : Reg) (s : State), s.mem.wf = true →
    let up := s.readReg b + 4
    let down := s.readReg b - 4
    (Code16 (.stPreInc a b) 0x2 (.ofFin a) 0x6 (.ofFin b) ∧
      (up.toNat % 4 = 0 →
        Runs (.stPreInc a b) s (fun t =>
          StoreUpdate b up s t ∧
          (WordWritten up (s.readReg a) s t ∨ (a = b ∧ WordWritten up up s t))))) ∧
    (Code16 (.stPreDec a b) 0x2 (.ofFin a) 0x7 (.ofFin b) ∧
      (down.toNat % 4 = 0 →
        Runs (.stPreDec a b) s (fun t =>
          StoreUpdate b down s t ∧
          (WordWritten down (s.readReg a) s t ∨ (a = b ∧ WordWritten down down s t)))))

/-- STB at any address and STH at an even one store the low-order byte or halfword; STH @R+ then adds 2 to
the base (R97, R217 to R221; byte order log 1, MEM_MAP logs 22, 46 to 48). -/
def Obligations.StoreNarrow : Prop :=
  ∀ (a b : Reg) (disp : BitVec 16) (s : State), s.mem.wf = true →
    let ea := s.readReg b
    let ea' := s.readReg b + disp.signExtend 32
    let byte := (s.readReg a).extractLsb' 0 8
    let half := (s.readReg a).extractLsb' 0 16
    (Code16 (.stbInd a b) 0x2 (.ofFin a) 0x0 (.ofFin b) ∧
      Runs (.stbInd a b) s (fun t => ByteWritten ea byte s t ∧ StoreOnly s t)) ∧
    (Code32 (.stbDisp a disp b) 0xA (.ofFin a) 0x0 (.ofFin b) disp ∧
      Runs (.stbDisp a disp b) s (fun t => ByteWritten ea' byte s t ∧ StoreOnly s t)) ∧
    (Code16 (.sthInd a b) 0x2 (.ofFin a) 0x2 (.ofFin b) ∧
      (ea.toNat % 2 = 0 →
        Runs (.sthInd a b) s (fun t => HalfWritten ea half s t ∧ StoreOnly s t))) ∧
    (Code16 (.sthPostInc a b) 0x2 (.ofFin a) 0x3 (.ofFin b) ∧
      (ea.toNat % 2 = 0 →
        Runs (.sthPostInc a b) s (fun t => HalfWritten ea half s t ∧ StoreUpdate b (ea + 2) s t))) ∧
    (Code32 (.sthDisp a disp b) 0xA (.ofFin a) 0x2 (.ofFin b) disp ∧
      (ea'.toNat % 2 = 0 →
        Runs (.sthDisp a disp b) s (fun t => HalfWritten ea' half s t ∧ StoreOnly s t)))

/-- UNLOCK at a word-aligned address stores only when the LOCK bit is 1 and always clears it; with the bit
0 and a misaligned address it is refused, the model's choice after the spec's decision D21 (log 20) (R97,
R222; byte order log 1, MEM_MAP logs 22, 46 to 48). -/
def Obligations.UnlockStore : Prop :=
  ∀ (a b : Reg) (s : State), s.mem.wf = true →
    let ea := s.readReg b
    Code16 (.unlock a b) 0x2 (.ofFin a) 0x5 (.ofFin b) ∧
    (ea.toNat % 4 = 0 → s.lock = true →
      Runs (.unlock a b) s (fun t =>
        WordWritten ea (s.readReg a) s t ∧ t.lock = false ∧ RegsKept s t ∧
          Frame [.mem, .device, .lock] s t)) ∧
    (ea.toNat % 4 = 0 → s.lock = false →
      Runs (.unlock a b) s (fun t => t.lock = false ∧ RegsKept s t ∧ Frame [] s t)) ∧
    (ea.toNat % 4 ≠ 0 → s.lock = false → exec (.unlock a b) s = .refused .unlockMisaligned)

/-- A word or halfword access at a misaligned address takes the address exception and does nothing else,
for every form that can (R94, R502). All-or-nothing is the spec's decision D7 (log 7), BPC the faulting
instruction's address D4 (log 4), the PSW as for TRAP D3 (log 3). -/
def Obligations.MisalignedTraps : Prop :=
  ∀ (d r : Reg) (disp : BitVec 16) (s : State),
    let ea := s.readReg r
    let ea' := s.readReg r + disp.signExtend 32
    (ea.toNat % 4 ≠ 0 →
      Runs (.ldInd d r) s (AddressTrap s) ∧ Runs (.ldPostInc d r) s (AddressTrap s) ∧
      Runs (.lock d r) s (AddressTrap s) ∧ Runs (.stInd d r) s (AddressTrap s) ∧
      (s.lock = true → Runs (.unlock d r) s (AddressTrap s))) ∧
    (ea'.toNat % 4 ≠ 0 →
      Runs (.ldDisp d disp r) s (AddressTrap s) ∧ Runs (.stDisp d disp r) s (AddressTrap s)) ∧
    ((ea + 4).toNat % 4 ≠ 0 → Runs (.stPreInc d r) s (AddressTrap s)) ∧
    ((ea - 4).toNat % 4 ≠ 0 → Runs (.stPreDec d r) s (AddressTrap s)) ∧
    (ea.toNat % 2 ≠ 0 →
      Runs (.ldhInd d r) s (AddressTrap s) ∧ Runs (.lduhInd d r) s (AddressTrap s) ∧
      Runs (.sthInd d r) s (AddressTrap s) ∧ Runs (.sthPostInc d r) s (AddressTrap s)) ∧
    (ea'.toNat % 2 ≠ 0 →
      Runs (.ldhDisp d disp r) s (AddressTrap s) ∧ Runs (.lduhDisp d disp r) s (AddressTrap s) ∧
      Runs (.sthDisp d disp r) s (AddressTrap s))

/-! ## TRAP and RTE (spec/45_eit_instructions.md, spec/60_exceptions.md) -/

/-- TRAP saves pc + 4, SM, IE and C, clears IE and C, keeps SM and goes to the entry of its number (R351,
R510 to R514). BPC = pc + 4 read literally is the spec's decision D28 (log 27), LOCK unchanged D12 (log
12), the entry's address the parameter of D2 (log 2). -/
def Obligations.TrapEntry : Prop :=
  ∀ (n : Fin 16) (s : State),
    Code16 (.trap n) 0x1 0x0 0xF (.ofFin n) ∧
    Runs (.trap n) s
      (Entered (s.vectors.trap[n.val] ++ (0 : BitVec 2)) ((s.pc + 4) &&& 0xFFFFFFFE) s.psw.sm [] s)

/-- RTE restores SM, IE and C from the backup bits and goes to BPC without its two low-order bits; the
backup bits and BPC end with some values, BPC's bit [0] being 0 (R352, R525). LOCK unchanged is the spec's
decision D12 (log 12), the reading of "undefined" D33 (log 32). -/
def Obligations.ReturnFromEit : Prop :=
  Code16 .rte 0x1 0x0 0xD 0x6 ∧
  ∀ s : State,
    Runs .rte s (fun t =>
      t.psw.sm = s.psw.bsm ∧ t.psw.ie = s.psw.bie ∧ t.psw.c = s.psw.bc ∧
      t.pc = s.bpc &&& 0xFFFFFFFC ∧ t.bpc.getLsbD 0 = false ∧ RegsKept s t ∧ Frame [.psw, .bpc] s t)

/-! ## Floating point (spec/47_fp_common_arith.md, spec/48_fp_convert_compare.md). The cause bits are the
spec's reading D17 (log 16), FPE's BPC D4 (log 4), FPE's PSW D3 (log 3). A statement with a free sign or a
free compare word holds for every draw. -/

/-- FADD, FSUB, FMUL, FDIV, FMADD, FMSUB: their encodings, and that each commits the result of its case
table, for some sign of a flushed zero: the register written, the causes set and the flags grown when
nothing raises FPE; else the exception taken with the register and the flags kept (R405, R420 to R425,
R427, R428). -/
def Obligations.FpArithmeticCommits : Prop :=
  ∀ (d a b : Reg) (s : State),
    let f := s.fpsr
    let x := s.readReg a
    let y := s.readReg b
    CodeFp (.fadd d a b) (.ofFin a) (.ofFin b) 0x0 (.ofFin d) 0x0 ∧
    CodeFp (.fsub d a b) (.ofFin a) (.ofFin b) 0x0 (.ofFin d) 0x4 ∧
    CodeFp (.fmul d a b) (.ofFin a) (.ofFin b) 0x1 (.ofFin d) 0x0 ∧
    CodeFp (.fdiv d a b) (.ofFin a) (.ofFin b) 0x2 (.ofFin d) 0x0 ∧
    CodeFp (.fmadd d a b) (.ofFin a) (.ofFin b) 0x3 (.ofFin d) 0x0 ∧
    CodeFp (.fmsub d a b) (.ofFin a) (.ofFin b) 0x3 (.ofFin d) 0x4 ∧
    (∃ z, FpCommits (.fadd d a b) d (fpTwoOperand (addTable f.rm) f z x y) s) ∧
    (∃ z, FpCommits (.fsub d a b) d (fpTwoOperand (subTable f.rm) f z x y) s) ∧
    (∃ z, FpCommits (.fmul d a b) d (fpTwoOperand mulTable f z x y) s) ∧
    (∃ z, FpCommits (.fdiv d a b) d (fpTwoOperand divTable f z x y) s) ∧
    (∃ z₁ z₂, FpCommits (.fmadd d a b) d (multiplyAdd false f z₁ z₂ x y (s.readReg d)) s) ∧
    (∃ z₁ z₂, FpCommits (.fmsub d a b) d (multiplyAdd true f z₁ z₂ x y (s.readReg d)) s)

/-- With every enable 0 and DN = 1, as after reset, each of the twelve floating-point instructions
completes on every operand and takes no exception (R405, R562). -/
def Obligations.MaskedFpCompletes : Prop :=
  ∀ (i : Instr) (s : State), i.isFloat = true → FpMasked s.fpsr →
    ∃ d x, Runs i s (FpCompleted d x s)

/-- The operand classes of FADD, FSUB, FMUL, FDIV, whatever their tables say: an SNaN is invalid, a QNaN
is not, and which QNaN results; then a denormalized operand with DN = 0 is unimplemented, and with DN = 1
it counts as the zero of its sign (R402, R416, R417). How an SNaN is made quiet is the spec's decision D26
(log 25). -/
def Obligations.FpOperandClasses : Prop :=
  ∀ (table : Word → Word → TableCell) (f : Fpsr) (z : Bool) (a b : Word),
    let r := fpTwoOperand table f z a b
    let isNumber := fun x => fpClass x ≠ .snan ∧ fpClass x ≠ .qnan
    let zero := fun (x : Word) => x &&& 0x80000000
    (fpClass b = .snan → r = { detected := { ivld := true }, value := b ||| 0x00400000 }) ∧
    (fpClass a = .snan → fpClass b ≠ .snan →
      r = { detected := { ivld := true }, value := a ||| 0x00400000 }) ∧
    (fpClass a ≠ .snan → fpClass b = .qnan → r = { detected := {}, value := b }) ∧
    (fpClass a = .qnan → isNumber b → r = { detected := {}, value := a }) ∧
    (isNumber a → isNumber b → f.dn = false →
      (fpClass a = .denormalized ∨ fpClass b = .denormalized) → r.detected = { uipl := true }) ∧
    (f.dn = true → fpClass a = .denormalized → isNumber b → r = fpTwoOperand table f z (zero a) b) ∧
    (f.dn = true → fpClass b = .denormalized → isNumber a → r = fpTwoOperand table f z a (zero b))

/-- The cells of the four tables that hold a zero or an infinity (R413, R420 to R423): exact special
results, invalid operations and division by zero. The sign of an exact zero sum is by RM (log 43). -/
def Obligations.FpSpecialCells : Prop :=
  ∀ (rm : RoundingMode) (n m : Word), fpClass n = .normalized → fpClass m = .normalized →
    let zeroOf := fun neg : Bool => if neg then (0x80000000 : Word) else 0
    let infOf := fun neg : Bool => if neg then (0xFF800000 : Word) else 0x7F800000
    let sumZero : Word := if rm = .towardMinusInf then 0x80000000 else 0
    ∀ p q : Bool,
      let x := n.getLsbD 31 ^^ p
      (addTable rm n (zeroOf p) = .special n ∧ addTable rm (zeroOf p) n = .special n ∧
        addTable rm n (infOf p) = .special (infOf p) ∧ addTable rm (infOf p) n = .special (infOf p) ∧
        addTable rm (zeroOf p) (zeroOf q) = .special (if p = q then zeroOf p else sumZero) ∧
        addTable rm (zeroOf p) (infOf q) = .special (infOf q) ∧
        addTable rm (infOf p) (zeroOf q) = .special (infOf p) ∧
        addTable rm (infOf p) (infOf q) = if p = q then .special (infOf p) else .ivld) ∧
      (∀ u v, subTable rm u v = addTable rm u (v ^^^ 0x80000000)) ∧
      (mulTable n (zeroOf p) = .special (zeroOf x) ∧ mulTable (zeroOf p) n = .special (zeroOf x) ∧
        mulTable n (infOf p) = .special (infOf x) ∧ mulTable (infOf p) n = .special (infOf x) ∧
        mulTable (zeroOf p) (zeroOf q) = .special (zeroOf (p ^^ q)) ∧
        mulTable (infOf p) (infOf q) = .special (infOf (p ^^ q)) ∧
        mulTable (zeroOf p) (infOf q) = .ivld ∧ mulTable (infOf p) (zeroOf q) = .ivld) ∧
      (divTable n (zeroOf p) = .div0 ∧ divTable (zeroOf p) n = .special (zeroOf x) ∧
        divTable n (infOf p) = .special (zeroOf x) ∧ divTable (infOf p) n = .special (infOf x) ∧
        divTable (zeroOf p) (zeroOf q) = .ivld ∧ divTable (infOf p) (infOf q) = .ivld ∧
        divTable (zeroOf p) (infOf q) = .special (zeroOf (p ^^ q)) ∧
        divTable (infOf p) (zeroOf q) = .special (infOf (p ^^ q))) ∧
      (∀ f z,
        fpTwoOperand divTable f z n (zeroOf p) = { detected := { div0 := true }, value := infOf x } ∧
        fpTwoOperand mulTable f z (infOf p) (zeroOf q) =
          { detected := { ivld := true }, value := 0x7FFFFFFF })

/-- On two normalized operands the four tables hold the exact sum, difference, product and quotient, and
an exact zero sum or difference is a zero with the sign that RM gives (R420 to R423; the sign log 43). -/
def Obligations.FpExactCells : Prop :=
  ∀ (rm : RoundingMode) (a b : Word), fpClass a = .normalized → fpClass b = .normalized →
    let zero : Word := if rm = .towardMinusInf then 0x80000000 else 0
    (if fpValue a + fpValue b = 0 then addTable rm a b = .special zero
      else ∃ v : Exact, addTable rm a b = .exact v ∧ v.Means (fpValue a + fpValue b)) ∧
    (if fpValue a - fpValue b = 0 then subTable rm a b = .special zero
      else ∃ v : Exact, subTable rm a b = .exact v ∧ v.Means (fpValue a - fpValue b)) ∧
    (∃ v : Exact, mulTable a b = .exact v ∧ v.Means (fpValue a * fpValue b)) ∧
    (∃ v : Exact, divTable a b = .exact v ∧ v.Means (fpValue a / fpValue b))

/-- `round24` rounds every non-zero number as R403 says, in all four directions. -/
def Obligations.RoundingDirections : Prop :=
  ∀ (rm : RoundingMode) (v : Exact) (q : ℚ), v.Means q → ∃ e n, RoundsTo rm q (round24 rm v) e n

/-- `finish` on every non-zero number q (R404, R410 to R412): below 2^-126 an underflow, and a zero; else
q is rounded by RM, and the result is an overflow with the immediate of its table, or the normalized word
of the rounded value, inexact when it differs from q. That underflow is judged before rounding and brings
no inexact is the spec's decision D27 (log 26), an enabled overflow alone D24 (log 23), the zero's sign is
free (log 17). -/
def Obligations.FinishResults : Prop :=
  ∀ (f : Fpsr) (z : Bool) (v : Exact) (q : ℚ), v.Means q →
    let r := finish f z v
    (|q| < 1 / 2 ^ 126 →
      r.detected = { udf := true, uipl := !f.dn } ∧ (r.value = 0 ∨ r.value = 0x80000000)) ∧
    (1 / 2 ^ 126 ≤ |q| →
      ∃ (y : Rounded) (e : Int) (n : Nat), RoundsTo f.rm q y e n ∧
        (127 < y.exponent →
          r.detected = { ovf := true, ixct := !f.eo } ∧
          r.value =
            match f.rm, y.neg with
            | .towardMinusInf, false => 0x7F7FFFFF
            | .towardMinusInf, true => 0xFF800000
            | .towardPlusInf, false => 0x7F800000
            | .towardPlusInf, true => 0xFF7FFFFF
            | .towardZero, false => 0x7F7FFFFF
            | .towardZero, true => 0xFF7FFFFF
            | .nearest, false => 0x7F800000
            | .nearest, true => 0xFF800000) ∧
        (y.exponent ≤ 127 →
          r.detected = { ixct := decide (y.value ≠ q) } ∧
          fpClass r.value = .normalized ∧ fpValue r.value = y.value))

/-- FMADD and FMSUB are FMUL rounded toward zero and then FADD or FSUB with the old Rdest c, the causes of
both steps together. A trap of step 1 ends it, and then the causes are those of step 1 with what the class
of c adds: IVLD for an SNaN, UIPL for a denormalized c with DN = 0. A step 1 overflow's immediate by RM is
the result for a normalized, zero or (DN = 1) denormalized c; an infinite c is added to it; a denormalized
c with DN = 0 is unimplemented; a NaN c wins (R416, R426, R428, R429). The order of the checks, FMSUB's
inverted immediate and that the added causes never decide the trap are the spec's decision D25 (log 24);
which bit makes an SNaN quiet is D26 (log 25). -/
def Obligations.MultiplyAddSteps : Prop :=
  ∀ (sub : Bool) (f : Fpsr) (z₁ z₂ : Bool) (a b c : Word),
    let m := fpTwoOperand mulTable { f with rm := .towardZero } z₁ a b
    let r := multiplyAdd sub f z₁ z₂ a b c
    let q := if sub then m.value ^^^ 0x80000000 else m.value
    let x := fpTwoOperand (addTable f.rm) f z₂ c q
    let isNumber := fun w => fpClass w ≠ .snan ∧ fpClass w ≠ .qnan
    let added : Detected :=
      { ivld := decide (fpClass c = .snan), uipl := decide (fpClass c = .denormalized) && !f.dn }
    (FpRaises f m.detected →
      r.detected = detectedUnion m.detected added ∧ FpRaises f r.detected) ∧
    (¬ FpRaises f m.detected → m.detected.ovf = false → isNumber c → isNumber m.value →
      r = { detected := detectedUnion m.detected x.detected, value := x.value }) ∧
    (¬ FpRaises f m.detected → isNumber c → ¬ isNumber m.value →
      r = { detected := m.detected, value := m.value }) ∧
    (¬ FpRaises f m.detected → m.detected.ovf = true →
      (fpClass c = .normalized ∨ fpClass c = .zero ∨ (fpClass c = .denormalized ∧ f.dn = true)) →
      r = { detected := m.detected
            value := if sub then overflowValue f.rm (m.value.getLsbD 31) ^^^ 0x80000000
              else overflowValue f.rm (m.value.getLsbD 31) }) ∧
    (¬ FpRaises f m.detected → m.detected.ovf = true → fpClass c = .denormalized → f.dn = false →
      r.detected = detectedUnion m.detected { uipl := true }) ∧
    (¬ FpRaises f m.detected → m.detected.ovf = true → fpClass c = .infinity →
      let p := overflowValue f.rm (m.value.getLsbD 31)
      let y := fpTwoOperand (addTable f.rm) f z₂ c (if sub then p ^^^ 0x80000000 else p)
      r = { detected := detectedUnion m.detected y.detected, value := y.value }) ∧
    (¬ FpRaises f m.detected → fpClass c = .qnan → r = { detected := m.detected, value := c }) ∧
    (¬ FpRaises f m.detected → fpClass c = .snan →
      r = { detected := detectedUnion m.detected { ivld := true }, value := c ||| 0x00400000 })

/-- ITOF and UTOF: zero gives +0, every other integer is rounded by RM, inexact when it changes, and only
an enabled inexact takes the exception (R451, R452). -/
def Obligations.IntegerToFloat : Prop :=
  ∀ (d r : Reg) (s : State),
    CodeFp (.itof d r) (.ofFin r) 0x0 0x4 (.ofFin d) 0x0 ∧
    CodeFp (.utof d r) (.ofFin r) 0x0 0x4 (.ofFin d) 0x4 ∧
    (let converts := fun (i : Instr) (k : Int) =>
      ∃ x : FpResult, FpCommits i d x s ∧
        (k = 0 → x = { detected := {}, value := 0 }) ∧
        (k ≠ 0 → ∃ (y : Rounded) (e : Int) (n : Nat), RoundsTo s.fpsr.rm k y e n ∧
          x.detected = { ixct := decide (y.value ≠ k) } ∧
          fpClass x.value = .normalized ∧ fpValue x.value = y.value)
     converts (.itof d r) (s.readReg r).toInt ∧ converts (.utof d r) ((s.readReg r).toNat : Int))

/-- FTOI and FTOS: a NaN or an infinity is invalid and saturates by its sign; a denormalized source is
unimplemented with DN = 0 and 0 with DN = 1; a finite one is truncated toward zero, and is invalid and
saturates when that is no 32-bit or 16-bit integer (R453, R454, R458). No exception at H'CF00 0000 is the
spec's decision D19 (log 18). -/
def Obligations.FloatToInteger : Prop :=
  ∀ (d r : Reg) (s : State),
    CodeFp (.ftoi d r) (.ofFin r) 0x0 0x4 (.ofFin d) 0x8 ∧
    CodeFp (.ftos d r) (.ofFin r) 0x0 0x4 (.ofFin d) 0xC ∧
    (let v := s.readReg r
     let t : Int := if fpValue v < 0 then ⌈fpValue v⌉ else ⌊fpValue v⌋
     let converts := fun (i : Instr) (low high : Int) (lowWord highWord : Word) =>
      ∃ x : FpResult, FpCommits i d x s ∧
        (let invalid : FpResult :=
           { detected := { ivld := true }, value := if v.getLsbD 31 then lowWord else highWord }
         (fpClass v = .qnan ∨ fpClass v = .snan ∨ fpClass v = .infinity → x = invalid) ∧
         (fpClass v = .denormalized → s.fpsr.dn = false → x.detected = { uipl := true }) ∧
         (fpClass v = .denormalized → s.fpsr.dn = true → x = { detected := {}, value := 0 }) ∧
         (fpClass v = .normalized ∨ fpClass v = .zero →
           x = if t < low ∨ high < t then invalid
             else { detected := { ixct := decide ((t : ℚ) ≠ fpValue v) }, value := .ofInt 32 t }))
     converts (.ftoi d r) (-2 ^ 31) (2 ^ 31 - 1) 0x80000000 0x7FFFFFFF ∧
       converts (.ftos d r) (-2 ^ 15) (2 ^ 15 - 1) 0xFFFF8000 0x00007FFF)

/-- FCMP and FCMPE: an SNaN (for FCMPE any NaN) is invalid and a NaN gives an "invalid" word; then a
denormalized operand with DN = 0 is unimplemented; else the word is 0, "less" or "greater" by the order of
R459, a denormalized operand being a zero (R455, R456, R457, R459). The free bits of the word are any that
its class allows (log 39). -/
def Obligations.FloatCompare : Prop :=
  ∀ (d a b : Reg) (s : State),
    CodeFp (.fcmp d a b) (.ofFin a) (.ofFin b) 0x0 (.ofFin d) 0xC ∧
    CodeFp (.fcmpe d a b) (.ofFin a) (.ofFin b) 0x0 (.ofFin d) 0xD ∧
    (let v := s.readReg a
     let w := s.readReg b
     let snan := fpClass v = .snan ∨ fpClass w = .snan
     let nan := snan ∨ fpClass v = .qnan ∨ fpClass w = .qnan
     let denormalized := fpClass v = .denormalized ∨ fpClass w = .denormalized
     let flush := fun u : Word => if fpClass u = .denormalized then u &&& 0x80000000 else u
     let compares := fun (i : Instr) (qnanInvalid : Bool) =>
      ∃ x : FpResult, FpCommits i d x s ∧
        (nan → InvalidWord x.value ∧ (snan → x.detected = { ivld := true }) ∧
          (¬ snan → x.detected = { ivld := qnanInvalid })) ∧
        (¬ nan → s.fpsr.dn = false → denormalized → x.detected = { uipl := true }) ∧
        (¬ nan → (s.fpsr.dn = true ∨ ¬ denormalized) →
          x.detected = {} ∧
          (FpBelow (flush v) (flush w) → LessWord x.value) ∧
          (FpBelow (flush w) (flush v) → GreaterWord x.value) ∧
          (¬ FpBelow (flush v) (flush w) → ¬ FpBelow (flush w) (flush v) → x.value = 0))
     compares (.fcmp d a b) false ∧ compares (.fcmpe d a b) true)

/-! ## Encoding (spec/30_encoding.md) -/

/-- Decoding the code of any well-formed instruction gives the instruction back, whatever its operands,
and so does decoding its bytes at a word-aligned address, and a 16-bit instruction's in a low-order
halfword too, with the bytes after it left (R130 to R154). -/
def Obligations.DecodeOfEncode : Prop :=
  ∀ (i : Instr) (rest : List Byte), i.wellFormed = true →
    decodeCode (encode i) = .ok i ∧ decodeBytes .high ((encode i).bytes ++ rest) = .ok (i, rest) ∧
      (∀ h : Half, encode i = .half h → decodeBytes .low ((encode i).bytes ++ rest) = .ok (i, rest))

/-- A code that decodes is the code of the instruction it decodes to, and that instruction is well formed:
no two codes mean the same instruction and no bit of a code is ignored (R154, R161). That a fixed field
other than 0 makes a code no instruction, rather than being ignored, is the spec's decision D5 (log 5);
that an unassigned control register number does is D14 (log 14): both are choices. -/
def Obligations.EncodeOfDecode : Prop :=
  ∀ (c : Code) (i : Instr), decodeCode c = .ok i → encode i = c ∧ i.wellFormed = true

/-- One word of each family, written from the encodings of R154, decodes to its instruction; two
unassigned patterns and a parallel slot decode to none. The hexadecimal words are the spec's own
transcriptions. That the two unassigned patterns are refused is the model's choice after the spec's
decision D5 (log 5), and that the parallel slot is, D6 (log 6). -/
def Obligations.SampleWords : Prop :=
  decodeTableWord 16 0x21C2 = some (.ldInd 1 2) ∧
  decodeTableWord 32 0xA142FFF8 = some (.stDisp 1 0xFFF8 2) ∧
  decodeTableWord 32 0xE1123456 = some (.ld24 1 0x123456) ∧
  decodeTableWord 16 0x16A2 = some (.mvtc 2 6) ∧
  decodeTableWord 32 0x8182FFFF = some (.addv3 1 2 0xFFFF) ∧
  decodeTableWord 32 0x91020000 = some (.div 1 2) ∧
  decodeTableWord 16 0x5158 = some (.slli 1 24) ∧
  decodeTableWord 32 0xB112FFFE = some (.bne 1 2 0xFFFE) ∧
  decodeTableWord 16 0x10F2 = some (.trap 2) ∧
  decodeTableWord 16 0x3142 = some (.machi 1 2) ∧
  decodeTableWord 32 0xD4050340 = some (.fsub 3 4 5) ∧
  decodeTableWord 32 0xD20041C0 = some (.ftos 1 2) ∧
  decodeTableWord 32 0xA762FFFF = some (.bset 7 0xFFFF 2) ∧
  decodeTableWord 16 0x7001 = none ∧
  decodeTableWord 32 0x91020001 = none ∧
  decodeLowSlot 0xF001 = .error .parallelSlot

/-! ## The whole machine -/

/-- Every step keeps the invariant: memory canonical, pc and BPC even (R46, R65). -/
def Obligations.InvKept : Prop := ∀ s t : State, s.Inv → step s = .next t → t.Inv

/-- The reset state meets the invariant. -/
def Obligations.InvAtReset : Prop := State.reset.Inv

/-- After reset CR0 reads 0 but for its backup bits, which the spec leaves undefined, FPSR reads H'0000
0100, and the pc is 0 (R42, R56, R67). -/
def Obligations.ResetValues : Prop :=
  State.reset.psw.sm = false ∧ State.reset.psw.ie = false ∧ State.reset.psw.c = false ∧
  (∀ i, i < 32 → i ≠ 15 → i ≠ 14 → i ≠ 8 → (pswWord State.reset.psw).getLsbD i = false) ∧
  State.reset.readCr 7 = some 0x00000100 ∧
  State.reset.pc = 0

/-- A step runs the instruction that the bytes at the pc decode to, unless reset is asserted or an
interrupt is accepted: `exec` of it, after the boundary's input is consumed, the draw number is counted up
(the model's own fields, logs 8 and 40) and the fetch has read. The fetch reads the word that holds the pc, as MEM_MAP says of that word (R96, R100;
logs 22, 47, 48), and takes all of it at a word-aligned pc, else its low-order halfword (log 49): from RAM or
ROM the bytes at the pc (R131). What does not decode is refused by name, the model's choice: an unassigned pattern
after the spec's decision D5 (log 5), a parallel slot after D6 (log 6), an unassigned control register
number after D14 (log 14). -/
def Obligations.StepRunsDecoded : Prop :=
  ∀ (s : State), s.pc.getLsbD 0 = false → s.input ≠ .reset → s.acceptsInterrupt = false →
    let u : State := { s with inputs := s.inputs.tail, drawIndex := s.drawIndex + 1 }
    let byte := s.mem.readByte
    let base := s.pc &&& 0xFFFFFFFC
    (∃ w, ReadGives u base .fetch (byte base ++ byte (base + 1) ++ byte (base + 2) ++ byte (base + 3)) w ∧
      u.fetchBytes = if s.pc.toNat % 4 = 0 then bytesOfWord w else bytesOfHalf (w.extractLsb' 0 16)) ∧
    (s.holding base = .ram ∨ s.holding base = .rom →
      u.fetchBytes =
        if s.pc.toNat % 4 = 0 then [byte s.pc, byte (s.pc + 1), byte (s.pc + 2), byte (s.pc + 3)]
        else [byte s.pc, byte (s.pc + 1)]) ∧
    (∀ (i : Instr) (rest : List Byte), decodeBytes (slotOf s.pc) u.fetchBytes = .ok (i, rest) →
      step s = exec i { u with device := deviceAfter u base .fetch }) ∧
    (decodeBytes (slotOf s.pc) u.fetchBytes = .error .undefinedInstruction →
      step s = .refused .undefinedInstruction) ∧
    (decodeBytes (slotOf s.pc) u.fetchBytes = .error .parallelSlot → step s = .refused .parallelSlot) ∧
    (decodeBytes (slotOf s.pc) u.fetchBytes = .error .unassignedControlRegister →
      step s = .refused .unassignedControlRegister)

/-- What is asserted at a boundary (R520 to R522, R560; the model's reading of the spec's decisions D8, D9
and D31, logs 8, 9, 30): reset gives the reset state's registers, flags, pc and LOCK bit and keeps memory
and the devices; an interrupt with IE = 1 at a word-aligned pc takes its entry, which saves the pc and
clears SM; an interrupt with IE = 0, or in a low-order halfword, changes nothing of the step. -/
def Obligations.BoundaryEvents : Prop :=
  ∀ (s : State), s.pc.getLsbD 0 = false →
    let s' : State := { s with inputs := s.inputs.tail, drawIndex := s.drawIndex + 1 }
    (s.input = .reset → ∃ t, step s = .next t ∧
      RegsKept State.reset t ∧ t.psw = State.reset.psw ∧ t.fpsr = State.reset.fpsr ∧
      t.bpc = State.reset.bpc ∧ t.acc = State.reset.acc ∧ t.pc = 0 ∧ t.lock = false ∧
      SameMemory s t ∧ t.vectors = s.vectors ∧ t.memMap = s.memMap ∧ t.device = s.device ∧
      t.inputs = s'.inputs ∧ t.drawIndex = s'.drawIndex) ∧
    (s.input = .interrupt → s.psw.ie = true → s.pc.toNat % 4 = 0 →
      ∃ t, step s = .next t ∧ Entered (s.vectors.ei ++ (0 : BitVec 2)) s.pc false [] s' t) ∧
    (s.input = .interrupt → (s.psw.ie = false ∨ s.pc.toNat % 4 ≠ 0) →
      step s = step { s with inputs := .quiet :: s.inputs.tail })

/-- The C bit changes only by an instruction that writes it as a result, or by the entry of the address or
floating-point exception (R43; the entries by log 3). -/
def Obligations.ConditionBitWriters : Prop :=
  ∀ (i : Instr) (s t : State), exec i s = .next t → t.psw.c ≠ s.psw.c →
    i.writesC = true ∨ (i.raisesAe = true ∧ AddressTrap s t) ∨
      (i.isFloat = true ∧ ∃ x, FpTrapped x s t)

/-- The accumulator, the LOCK bit, memory and the FPSR change only by the instructions that the spec names
as their writers, a device only by those that access memory, and no instruction changes the vector table,
the memory map, the inputs to come or the draw number (R53, R61, R62, R70, R96, R97, R100, R406). -/
def Obligations.OnlyNamedWriters : Prop :=
  ∀ (i : Instr) (s t : State), exec i s = .next t →
    (i.writesAcc = false → t.acc = s.acc) ∧ (i.writesLock = false → t.lock = s.lock) ∧
    (i.writesMemory = false → SameMemory s t) ∧ (i.writesFpsr = false → t.fpsr = s.fpsr) ∧
    (i.readsMemory = false → i.writesMemory = false → t.device = s.device) ∧
    t.vectors = s.vectors ∧ t.memMap = s.memMap ∧ t.inputs = s.inputs ∧ t.drawIndex = s.drawIndex

/-- Every instruction answers a next state in every state, but for the two refusals that the spec's
decisions D14 and D21 make: a control register number that names none, and UNLOCK of a misaligned address
while the LOCK bit is 0 (R57, R222, R505; logs 14, 20). -/
def Obligations.EveryInstructionRuns : Prop :=
  ∀ (i : Instr) (s : State),
    (∃ t, exec i s = .next t) ∨
    (i.wellFormed = false ∧ exec i s = .refused .unassignedControlRegister) ∨
    (∃ a b, i = .unlock a b ∧ s.lock = false ∧ (s.readReg b).toNat % 4 ≠ 0 ∧
      exec i s = .refused .unlockMisaligned)

/-- An instruction that does not set the pc itself moves it by its length, 2 or 4, or takes the address
exception if it is one of the nine mnemonics that can, or the floating-point exception if it is one of the
twelve (R66, R95, R501; the wrap at the top of the address space is log 19). -/
def Obligations.PcAdvances : Prop :=
  ∀ (i : Instr) (s t : State), i.transfers = false → exec i s = .next t →
    t.pc = s.pc + .ofNat 32 i.length ∨ (i.raisesAe = true ∧ AddressTrap s t) ∨
      (i.isFloat = true ∧ ∃ x, FpTrapped x s t)

/-- The pc is in a low-order halfword only after falling through from the high-order halfword of the same
word: every branch, return and exception entry goes to a word-aligned address (R66). -/
def Obligations.LowHalfOnlyByFallThrough : Prop :=
  ∀ (s t : State), s.pc.getLsbD 0 = false → step s = .next t → t.pc.getLsbD 1 = true →
    s.pc.getLsbD 1 = false ∧ t.pc = s.pc + 2
end

