-- ==== Sys2Proof/Laws/Encoding.lean ====
section
/-! SUPPORT. The small lemmas of splitting and joining codes: what the decoder takes apart is what the
encoder put together. -/

namespace Sys2Proof.Laws

/-- A bit of a joined halfword is a bit of one of its four positions. -/
theorem joinHalf_getLsbD (a b c d : BitVec 4) (i : Nat) :
    (joinHalf a b c d).getLsbD i =
      if i < 4 then d.getLsbD i else if i < 8 then c.getLsbD (i - 4)
      else if i < 12 then b.getLsbD (i - 8) else a.getLsbD (i - 12) := by
  have h : (joinHalf a b c d).getLsbD i =
      (((a ++ b : BitVec (4 + 4)) ++ c : BitVec (4 + 4 + 4)) ++ d).getLsbD i := rfl
  rw [h]
  simp only [BitVec.getLsbD_append]
  split_ifs <;> first | rfl | omega

/-- A bit of a joined word is a bit of its low or of its high halfword. -/
theorem joinWord_getLsbD (a b c d : BitVec 4) (e : Half) (i : Nat) :
    (joinWord a b c d e).getLsbD i =
      if i < 16 then e.getLsbD i else (joinHalf a b c d).getLsbD (i - 16) := by
  have h : (joinWord a b c d e).getLsbD i = (joinHalf a b c d ++ e).getLsbD i := rfl
  rw [h]
  simp only [BitVec.getLsbD_append]

/-- Splitting undoes joining. -/
@[simp] theorem splitHalf_joinHalf (a b c d : BitVec 4) : splitHalf (joinHalf a b c d) = ⟨a, b, c, d⟩ := by
  unfold splitHalf
  congr 1 <;>
    (apply BitVec.eq_of_getLsbD_eq
     intro i hi
     simp only [BitVec.getLsbD_extractLsb', joinHalf_getLsbD]
     split_ifs <;> first | omega | simp [hi])

@[simp] theorem highHalf_joinWord (a b c d : BitVec 4) (e : Half) :
    highHalf (joinWord a b c d e) = joinHalf a b c d := by
  unfold highHalf
  apply BitVec.eq_of_getLsbD_eq
  intro i hi
  simp [hi, joinWord_getLsbD]

@[simp] theorem lowHalf_joinWord (a b c d : BitVec 4) (e : Half) : lowHalf (joinWord a b c d e) = e := by
  unfold lowHalf
  apply BitVec.eq_of_getLsbD_eq
  intro i hi
  simp [hi, joinWord_getLsbD]

/-- The first bit of a joined halfword is that of its first position. -/
theorem joinHalf_msb (op1 r1 op2 r2 : BitVec 4) : (joinHalf op1 r1 op2 r2).msb = op1.msb := by
  rw [BitVec.msb_eq_getLsbD_last, BitVec.msb_eq_getLsbD_last, joinHalf_getLsbD]
  rfl

/-- The first bit of a joined word is that of its first position. -/
theorem joinWord_msb (op1 r1 op2 r2 : BitVec 4) (c : Half) : (joinWord op1 r1 op2 r2 c).msb = op1.msb := by
  rw [BitVec.msb_eq_getLsbD_last, joinWord_getLsbD]
  exact joinHalf_msb _ _ _ _

@[simp] theorem fieldNumber_numberField (r : Fin 16) : fieldNumber (numberField r) = r := rfl

/-- A byte is its two 4-bit halves. -/
@[simp] theorem highNibble_append_lowNibble (c : BitVec 8) : highNibble c ++ lowNibble c = c := by
  apply BitVec.eq_of_getLsbD_eq
  intro i hi
  simp only [highNibble, lowNibble, BitVec.getLsbD_append, BitVec.getLsbD_extractLsb']
  split_ifs with h
  · simp [h]
  · simp [show i - 4 < 4 by omega, show 4 + (i - 4) = i by omega]

/-- An 8-bit constant follows its two positions. -/
theorem byteCode_eq (op1 r1 : BitVec 4) (c : BitVec 8) : byteCode op1 r1 c = op1 ++ r1 ++ c := by
  apply BitVec.eq_of_getLsbD_eq
  intro i hi
  simp only [byteCode, joinHalf_getLsbD, highNibble, lowNibble, BitVec.getLsbD_extractLsb',
    BitVec.getLsbD_append]
  interval_cases i <;> simp

/-- A 24-bit constant follows its two positions. -/
theorem longCode_eq (op1 r1 : BitVec 4) (c : BitVec 24) : longCode op1 r1 c = op1 ++ r1 ++ c := by
  apply BitVec.eq_of_getLsbD_eq
  intro i hi
  simp only [longCode, joinWord_getLsbD, joinHalf_getLsbD, BitVec.getLsbD_extractLsb', BitVec.getLsbD_append]
  interval_cases i <;> simp

/-- A 5-bit count follows its three positions. -/
theorem shiftCode_eq (d : Reg) (op : BitVec 3) (c : BitVec 5) :
    shiftCode d op c = (0x5 : BitVec 4) ++ numberField d ++ op ++ c := by
  apply BitVec.eq_of_getLsbD_eq
  intro i hi
  simp only [shiftCode, joinHalf_getLsbD, BitVec.getLsbD_extractLsb', BitVec.getLsbD_append]
  interval_cases i <;> simp

end Sys2Proof.Laws
end

