-- ==== Sys2Proof/Laws/Memory.lean ====
section
/-! SUPPORT. The laws of memory: every operation keeps the canonical form, a byte written reads as
written, and every other byte reads as before. -/

namespace Sys2Proof.Machine

/-- An address below every listed one reads as unlisted. -/
theorem cellsRead_below (a : Nat) : ∀ (lo : Nat) (c : List Host.Cell), cellsWf lo c = true → a < lo →
    cellsRead a c = unlistedByte
  | _, [], _, _ => rfl
  | lo, (k, b) :: rest, h, ha => by
    simp only [cellsWf, Bool.and_eq_true, decide_eq_true_eq] at h
    have hk : ¬ k = a := by omega
    simp only [cellsRead, hk, if_false]
    exact cellsRead_below a (k + 1) rest h.2 (by omega)

/-- The form stays canonical from any lower bound. -/
theorem cellsWf_mono {lo lo' : Nat} (hl : lo' ≤ lo) : ∀ c : List Host.Cell, cellsWf lo c = true →
    cellsWf lo' c = true
  | [], _ => rfl
  | (k, b) :: rest, h => by
    simp only [cellsWf, Bool.and_eq_true, decide_eq_true_eq] at h ⊢
    exact ⟨⟨⟨by omega, h.1.1.2⟩, h.1.2⟩, h.2⟩

/-- A write keeps the canonical form. -/
theorem cellsWf_cellsWrite (a : Nat) (v : Byte) (ha : a < 2 ^ 32) : ∀ (lo : Nat) (c : List Host.Cell),
    cellsWf lo c = true → lo ≤ a → cellsWf lo (cellsWrite a v c) = true
  | lo, [], _, hlo => by
    unfold cellsWrite
    split
    · rfl
    · rename_i hv
      simp only [cellsWf, Bool.and_eq_true, decide_eq_true_eq]
      exact ⟨⟨⟨hlo, ha⟩, by simp [hv]⟩, trivial⟩
  | lo, (k, b) :: rest, h, hlo => by
    have h' := h
    simp only [cellsWf, Bool.and_eq_true, decide_eq_true_eq] at h'
    unfold cellsWrite
    split
    · rename_i hk
      simp only [cellsWf, Bool.and_eq_true, decide_eq_true_eq]
      exact ⟨h'.1, cellsWf_cellsWrite a v ha (k + 1) rest h'.2 (by omega)⟩
    · rename_i hk
      have htail : cellsWf (a + 1) (if k = a then rest else (k, b) :: rest) = true := by
        split <;> rename_i he
        · exact he ▸ h'.2
        · simp only [cellsWf, Bool.and_eq_true, decide_eq_true_eq]
          exact ⟨⟨⟨by omega, h'.1.1.2⟩, h'.1.2⟩, h'.2⟩
      show cellsWf lo (if v = unlistedByte then _ else _) = true
      split <;> rename_i hv
      · exact cellsWf_mono (by omega) _ htail
      · simp only [cellsWf, Bool.and_eq_true, decide_eq_true_eq]
        exact ⟨⟨⟨hlo, ha⟩, by simp [hv]⟩, htail⟩

/-- A byte written reads as written, in canonical cells. -/
theorem cellsRead_cellsWrite_same (a : Nat) (v : Byte) : ∀ (lo : Nat) (c : List Host.Cell),
    cellsWf lo c = true → cellsRead a (cellsWrite a v c) = v
  | _, [], _ => by
    unfold cellsWrite
    split <;> rename_i hv
    · exact hv.symm
    · simp [cellsRead]
  | lo, (k, b) :: rest, h => by
    simp only [cellsWf, Bool.and_eq_true, decide_eq_true_eq] at h
    unfold cellsWrite
    split <;> rename_i hk
    · have hne : ¬ k = a := by omega
      simp only [cellsRead, hne, if_false]
      exact cellsRead_cellsWrite_same a v (k + 1) rest h.2
    · show cellsRead a (if v = unlistedByte then _ else _) = v
      split <;> rename_i hv
      · rw [hv]
        split <;> rename_i he
        · exact cellsRead_below a (k + 1) rest h.2 (by omega)
        · simp only [cellsRead, he, if_false]
          exact cellsRead_below a (k + 1) rest h.2 (by omega)
      · simp [cellsRead]

/-- A byte not written reads as before, in any cells. -/
theorem cellsRead_cellsWrite_other (a b : Nat) (v : Byte) (hne : b ≠ a) : ∀ c : List Host.Cell,
    cellsRead b (cellsWrite a v c) = cellsRead b c
  | [] => by
    unfold cellsWrite
    split
    · rfl
    · simp [cellsRead, Ne.symm hne]
  | (k, x) :: rest => by
    unfold cellsWrite
    split
    · simp only [cellsRead]
      rw [cellsRead_cellsWrite_other a b v hne rest]
    · show cellsRead b (if v = unlistedByte then _ else _) = _
      have htail : cellsRead b (if k = a then rest else (k, x) :: rest) = cellsRead b ((k, x) :: rest) := by
        split <;> rename_i he
        · simp [cellsRead, he, Ne.symm hne]
        · rfl
      split
      · exact htail
      · rw [cellsRead, if_neg (Ne.symm hne)]
        exact htail

/-- A byte write keeps the canonical form. -/
theorem Memory.wf_writeByte (m : Memory) (a : Word) (v : Byte) (h : m.wf = true) :
    (m.writeByte a v).wf = true :=
  cellsWf_cellsWrite a.toNat v a.isLt 0 m.cells h (Nat.zero_le _)

/-- A halfword write keeps the canonical form. -/
theorem Memory.wf_writeHalf (m : Memory) (a : Word) (v : Half) (h : m.wf = true) :
    (m.writeHalf a v).wf = true :=
  Memory.wf_writeByte _ _ _ (Memory.wf_writeByte _ _ _ h)

/-- A word write keeps the canonical form. -/
theorem Memory.wf_writeWord (m : Memory) (a : Word) (v : Word) (h : m.wf = true) :
    (m.writeWord a v).wf = true :=
  Memory.wf_writeByte _ _ _ (Memory.wf_writeByte _ _ _ (Memory.wf_writeByte _ _ _ (Memory.wf_writeByte _ _ _ h)))

/-- Placing an image keeps the canonical form. -/
theorem Memory.wf_writeBytes (a : Word) (bs : List Byte) (m : Memory) (h : m.wf = true) :
    (m.writeBytes a bs).wf = true := by
  induction bs generalizing m a with
  | nil => exact h
  | cons b rest ih => exact ih (a + 1) _ (Memory.wf_writeByte _ _ _ h)

/-- The memory at reset is in canonical form. -/
theorem reset_memory_wf : State.reset.mem.wf = true := rfl

/-- A byte written reads as written. -/
theorem Memory.readByte_writeByte_same (m : Memory) (a : Word) (v : Byte) (h : m.wf = true) :
    (m.writeByte a v).readByte a = v :=
  cellsRead_cellsWrite_same a.toNat v 0 m.cells h

/-- A byte not written reads as before. -/
theorem Memory.readByte_writeByte_other (m : Memory) (a b : Word) (v : Byte) (hne : b ≠ a) :
    (m.writeByte a v).readByte b = m.readByte b :=
  cellsRead_cellsWrite_other a.toNat b.toNat v (fun e => hne (BitVec.eq_of_toNat_eq e)) m.cells

/-- Outside its two bytes a halfword write changes nothing. -/
theorem Memory.readByte_writeHalf_other (m : Memory) (a b : Word) (v : Half) (h0 : b ≠ a) (h1 : b ≠ a + 1) :
    (m.writeHalf a v).readByte b = m.readByte b := by
  unfold Memory.writeHalf
  rw [Memory.readByte_writeByte_other _ _ _ _ h1, Memory.readByte_writeByte_other _ _ _ _ h0]

/-- Outside its four bytes a word write changes nothing. -/
theorem Memory.readByte_writeWord_other (m : Memory) (a b : Word) (v : Word) (h0 : b ≠ a) (h1 : b ≠ a + 1)
    (h2 : b ≠ a + 2) (h3 : b ≠ a + 3) : (m.writeWord a v).readByte b = m.readByte b := by
  unfold Memory.writeWord
  rw [Memory.readByte_writeByte_other _ _ _ _ h3, Memory.readByte_writeByte_other _ _ _ _ h2,
    Memory.readByte_writeByte_other _ _ _ _ h1, Memory.readByte_writeByte_other _ _ _ _ h0]

/-- Two different small offsets from one address name different bytes. -/
theorem offset_ne (a : Word) {i j : Word} (h : i ≠ j) : a + i ≠ a + j := fun e => h (by simpa using e)

/-- The bytes of a halfword written, most significant first (R97). -/
theorem Memory.readByte_writeHalf (m : Memory) (a : Word) (v : Half) (h : m.wf = true) :
    (m.writeHalf a v).readByte a = v.extractLsb' 8 8 ∧
      (m.writeHalf a v).readByte (a + 1) = v.extractLsb' 0 8 := by
  unfold Memory.writeHalf
  refine ⟨?_, Memory.readByte_writeByte_same _ _ _ (Memory.wf_writeByte _ _ _ h)⟩
  rw [Memory.readByte_writeByte_other _ _ _ _ (by simp),
    Memory.readByte_writeByte_same _ _ _ h]

/-- The bytes of a word written, most significant first (R97). -/
theorem Memory.readByte_writeWord (m : Memory) (a : Word) (v : Word) (h : m.wf = true) :
    (m.writeWord a v).readByte a = v.extractLsb' 24 8 ∧
      (m.writeWord a v).readByte (a + 1) = v.extractLsb' 16 8 ∧
      (m.writeWord a v).readByte (a + 2) = v.extractLsb' 8 8 ∧
      (m.writeWord a v).readByte (a + 3) = v.extractLsb' 0 8 := by
  have w0 := Memory.wf_writeByte m a (v.extractLsb' 24 8) h
  have w1 := Memory.wf_writeByte _ (a + 1) (v.extractLsb' 16 8) w0
  have w2 := Memory.wf_writeByte _ (a + 2) (v.extractLsb' 8 8) w1
  have n01 : a ≠ a + 1 := by simp
  have n02 : a ≠ a + 2 := by simp
  have n03 : a ≠ a + 3 := by simp
  have n12 : a + 1 ≠ a + 2 := offset_ne a (by decide)
  have n13 : a + 1 ≠ a + 3 := offset_ne a (by decide)
  have n23 : a + 2 ≠ a + 3 := offset_ne a (by decide)
  unfold Memory.writeWord
  refine ⟨?_, ?_, ?_, Memory.readByte_writeByte_same _ _ _ w2⟩
  · rw [Memory.readByte_writeByte_other _ _ _ _ n03, Memory.readByte_writeByte_other _ _ _ _ n02,
      Memory.readByte_writeByte_other _ _ _ _ n01, Memory.readByte_writeByte_same _ _ _ h]
  · rw [Memory.readByte_writeByte_other _ _ _ _ n13, Memory.readByte_writeByte_other _ _ _ _ n12,
      Memory.readByte_writeByte_same _ _ _ w0]
  · rw [Memory.readByte_writeByte_other _ _ _ _ n23, Memory.readByte_writeByte_same _ _ _ w1]

end Sys2Proof.Machine
end

