-- ==== Sys2Proof/Laws/State.lean ====
section
/-! SUPPORT. One lemma for each field of State and each named update of it, so that no proof unfolds a
record update; and reading a register after writing one. -/

namespace Sys2Proof.Machine

@[simp] theorem State.advance_gprs (s : State) (n : Word) : (s.advance n).gprs = s.gprs := rfl
@[simp] theorem State.advance_spi (s : State) (n : Word) : (s.advance n).spi = s.spi := rfl
@[simp] theorem State.advance_spu (s : State) (n : Word) : (s.advance n).spu = s.spu := rfl
@[simp] theorem State.advance_psw (s : State) (n : Word) : (s.advance n).psw = s.psw := rfl
@[simp] theorem State.advance_fpsr (s : State) (n : Word) : (s.advance n).fpsr = s.fpsr := rfl
@[simp] theorem State.advance_bpc (s : State) (n : Word) : (s.advance n).bpc = s.bpc := rfl
@[simp] theorem State.advance_acc (s : State) (n : Word) : (s.advance n).acc = s.acc := rfl
@[simp] theorem State.advance_pc (s : State) (n : Word) : (s.advance n).pc = s.pc + n := rfl
@[simp] theorem State.advance_lock (s : State) (n : Word) : (s.advance n).lock = s.lock := rfl
@[simp] theorem State.advance_mem (s : State) (n : Word) : (s.advance n).mem = s.mem := rfl
@[simp] theorem State.advance_vectors (s : State) (n : Word) : (s.advance n).vectors = s.vectors := rfl
@[simp] theorem State.advance_memMap (s : State) (n : Word) : (s.advance n).memMap = s.memMap := rfl
@[simp] theorem State.advance_device (s : State) (n : Word) : (s.advance n).device = s.device := rfl
@[simp] theorem State.advance_inputs (s : State) (n : Word) : (s.advance n).inputs = s.inputs := rfl
@[simp] theorem State.advance_drawIndex (s : State) (n : Word) : (s.advance n).drawIndex = s.drawIndex := rfl

@[simp] theorem State.goto_gprs (s : State) (t : Word) : (s.goto t).gprs = s.gprs := rfl
@[simp] theorem State.goto_spi (s : State) (t : Word) : (s.goto t).spi = s.spi := rfl
@[simp] theorem State.goto_spu (s : State) (t : Word) : (s.goto t).spu = s.spu := rfl
@[simp] theorem State.goto_psw (s : State) (t : Word) : (s.goto t).psw = s.psw := rfl
@[simp] theorem State.goto_fpsr (s : State) (t : Word) : (s.goto t).fpsr = s.fpsr := rfl
@[simp] theorem State.goto_bpc (s : State) (t : Word) : (s.goto t).bpc = s.bpc := rfl
@[simp] theorem State.goto_acc (s : State) (t : Word) : (s.goto t).acc = s.acc := rfl
@[simp] theorem State.goto_pc (s : State) (t : Word) : (s.goto t).pc = t := rfl
@[simp] theorem State.goto_lock (s : State) (t : Word) : (s.goto t).lock = s.lock := rfl
@[simp] theorem State.goto_mem (s : State) (t : Word) : (s.goto t).mem = s.mem := rfl
@[simp] theorem State.goto_vectors (s : State) (t : Word) : (s.goto t).vectors = s.vectors := rfl
@[simp] theorem State.goto_memMap (s : State) (t : Word) : (s.goto t).memMap = s.memMap := rfl
@[simp] theorem State.goto_device (s : State) (t : Word) : (s.goto t).device = s.device := rfl
@[simp] theorem State.goto_inputs (s : State) (t : Word) : (s.goto t).inputs = s.inputs := rfl
@[simp] theorem State.goto_drawIndex (s : State) (t : Word) : (s.goto t).drawIndex = s.drawIndex := rfl

@[simp] theorem State.setC_gprs (s : State) (c : Bool) : (s.setC c).gprs = s.gprs := rfl
@[simp] theorem State.setC_spi (s : State) (c : Bool) : (s.setC c).spi = s.spi := rfl
@[simp] theorem State.setC_spu (s : State) (c : Bool) : (s.setC c).spu = s.spu := rfl
@[simp] theorem State.setC_psw (s : State) (c : Bool) : (s.setC c).psw = { s.psw with c := c } := rfl
@[simp] theorem State.setC_fpsr (s : State) (c : Bool) : (s.setC c).fpsr = s.fpsr := rfl
@[simp] theorem State.setC_bpc (s : State) (c : Bool) : (s.setC c).bpc = s.bpc := rfl
@[simp] theorem State.setC_acc (s : State) (c : Bool) : (s.setC c).acc = s.acc := rfl
@[simp] theorem State.setC_pc (s : State) (c : Bool) : (s.setC c).pc = s.pc := rfl
@[simp] theorem State.setC_lock (s : State) (c : Bool) : (s.setC c).lock = s.lock := rfl
@[simp] theorem State.setC_mem (s : State) (c : Bool) : (s.setC c).mem = s.mem := rfl
@[simp] theorem State.setC_vectors (s : State) (c : Bool) : (s.setC c).vectors = s.vectors := rfl
@[simp] theorem State.setC_memMap (s : State) (c : Bool) : (s.setC c).memMap = s.memMap := rfl
@[simp] theorem State.setC_device (s : State) (c : Bool) : (s.setC c).device = s.device := rfl
@[simp] theorem State.setC_inputs (s : State) (c : Bool) : (s.setC c).inputs = s.inputs := rfl
@[simp] theorem State.setC_drawIndex (s : State) (c : Bool) : (s.setC c).drawIndex = s.drawIndex := rfl

@[simp] theorem State.setLock_gprs (s : State) (b : Bool) : (s.setLock b).gprs = s.gprs := rfl
@[simp] theorem State.setLock_spi (s : State) (b : Bool) : (s.setLock b).spi = s.spi := rfl
@[simp] theorem State.setLock_spu (s : State) (b : Bool) : (s.setLock b).spu = s.spu := rfl
@[simp] theorem State.setLock_psw (s : State) (b : Bool) : (s.setLock b).psw = s.psw := rfl
@[simp] theorem State.setLock_fpsr (s : State) (b : Bool) : (s.setLock b).fpsr = s.fpsr := rfl
@[simp] theorem State.setLock_bpc (s : State) (b : Bool) : (s.setLock b).bpc = s.bpc := rfl
@[simp] theorem State.setLock_acc (s : State) (b : Bool) : (s.setLock b).acc = s.acc := rfl
@[simp] theorem State.setLock_pc (s : State) (b : Bool) : (s.setLock b).pc = s.pc := rfl
@[simp] theorem State.setLock_lock (s : State) (b : Bool) : (s.setLock b).lock = b := rfl
@[simp] theorem State.setLock_mem (s : State) (b : Bool) : (s.setLock b).mem = s.mem := rfl
@[simp] theorem State.setLock_vectors (s : State) (b : Bool) : (s.setLock b).vectors = s.vectors := rfl
@[simp] theorem State.setLock_memMap (s : State) (b : Bool) : (s.setLock b).memMap = s.memMap := rfl
@[simp] theorem State.setLock_device (s : State) (b : Bool) : (s.setLock b).device = s.device := rfl
@[simp] theorem State.setLock_inputs (s : State) (b : Bool) : (s.setLock b).inputs = s.inputs := rfl
@[simp] theorem State.setLock_drawIndex (s : State) (b : Bool) : (s.setLock b).drawIndex = s.drawIndex := rfl

@[simp] theorem State.setAcc_gprs (s : State) (v : Int) : (s.setAcc v).gprs = s.gprs := rfl
@[simp] theorem State.setAcc_spi (s : State) (v : Int) : (s.setAcc v).spi = s.spi := rfl
@[simp] theorem State.setAcc_spu (s : State) (v : Int) : (s.setAcc v).spu = s.spu := rfl
@[simp] theorem State.setAcc_psw (s : State) (v : Int) : (s.setAcc v).psw = s.psw := rfl
@[simp] theorem State.setAcc_fpsr (s : State) (v : Int) : (s.setAcc v).fpsr = s.fpsr := rfl
@[simp] theorem State.setAcc_bpc (s : State) (v : Int) : (s.setAcc v).bpc = s.bpc := rfl
@[simp] theorem State.setAcc_acc (s : State) (v : Int) : (s.setAcc v).acc = BitVec.ofInt 56 v := rfl
@[simp] theorem State.setAcc_pc (s : State) (v : Int) : (s.setAcc v).pc = s.pc := rfl
@[simp] theorem State.setAcc_lock (s : State) (v : Int) : (s.setAcc v).lock = s.lock := rfl
@[simp] theorem State.setAcc_mem (s : State) (v : Int) : (s.setAcc v).mem = s.mem := rfl
@[simp] theorem State.setAcc_vectors (s : State) (v : Int) : (s.setAcc v).vectors = s.vectors := rfl
@[simp] theorem State.setAcc_memMap (s : State) (v : Int) : (s.setAcc v).memMap = s.memMap := rfl
@[simp] theorem State.setAcc_device (s : State) (v : Int) : (s.setAcc v).device = s.device := rfl
@[simp] theorem State.setAcc_inputs (s : State) (v : Int) : (s.setAcc v).inputs = s.inputs := rfl
@[simp] theorem State.setAcc_drawIndex (s : State) (v : Int) : (s.setAcc v).drawIndex = s.drawIndex := rfl

@[simp] theorem State.eitEntry_gprs (s : State) (k : EitEvent) (p : Word) : (s.eitEntry k p).gprs = s.gprs := rfl
@[simp] theorem State.eitEntry_spi (s : State) (k : EitEvent) (p : Word) : (s.eitEntry k p).spi = s.spi := rfl
@[simp] theorem State.eitEntry_spu (s : State) (k : EitEvent) (p : Word) : (s.eitEntry k p).spu = s.spu := rfl
@[simp] theorem State.eitEntry_psw (s : State) (k : EitEvent) (p : Word) : (s.eitEntry k p).psw = pswAfterEntry k s.psw := rfl
@[simp] theorem State.eitEntry_fpsr (s : State) (k : EitEvent) (p : Word) : (s.eitEntry k p).fpsr = s.fpsr := rfl
@[simp] theorem State.eitEntry_bpc (s : State) (k : EitEvent) (p : Word) : (s.eitEntry k p).bpc = clearBit0 p := rfl
@[simp] theorem State.eitEntry_acc (s : State) (k : EitEvent) (p : Word) : (s.eitEntry k p).acc = s.acc := rfl
@[simp] theorem State.eitEntry_pc (s : State) (k : EitEvent) (p : Word) : (s.eitEntry k p).pc = s.eitVector k := rfl
@[simp] theorem State.eitEntry_lock (s : State) (k : EitEvent) (p : Word) : (s.eitEntry k p).lock = s.lock := rfl
@[simp] theorem State.eitEntry_mem (s : State) (k : EitEvent) (p : Word) : (s.eitEntry k p).mem = s.mem := rfl
@[simp] theorem State.eitEntry_vectors (s : State) (k : EitEvent) (p : Word) : (s.eitEntry k p).vectors = s.vectors := rfl
@[simp] theorem State.eitEntry_memMap (s : State) (k : EitEvent) (p : Word) : (s.eitEntry k p).memMap = s.memMap := rfl
@[simp] theorem State.eitEntry_device (s : State) (k : EitEvent) (p : Word) : (s.eitEntry k p).device = s.device := rfl
@[simp] theorem State.eitEntry_inputs (s : State) (k : EitEvent) (p : Word) : (s.eitEntry k p).inputs = s.inputs := rfl
@[simp] theorem State.eitEntry_drawIndex (s : State) (k : EitEvent) (p : Word) : (s.eitEntry k p).drawIndex = s.drawIndex := rfl

@[simp] theorem State.eitReturn_gprs (s : State) : (s.eitReturn).gprs = s.gprs := rfl
@[simp] theorem State.eitReturn_spi (s : State) : (s.eitReturn).spi = s.spi := rfl
@[simp] theorem State.eitReturn_spu (s : State) : (s.eitReturn).spu = s.spu := rfl
@[simp] theorem State.eitReturn_fpsr (s : State) : (s.eitReturn).fpsr = s.fpsr := rfl
@[simp] theorem State.eitReturn_bpc (s : State) : (s.eitReturn).bpc = Config.bpcAfterRte s.drawIndex ++ (0 : BitVec 1) := rfl
@[simp] theorem State.eitReturn_acc (s : State) : (s.eitReturn).acc = s.acc := rfl
@[simp] theorem State.eitReturn_pc (s : State) : (s.eitReturn).pc = wordBase s.bpc := rfl
@[simp] theorem State.eitReturn_lock (s : State) : (s.eitReturn).lock = s.lock := rfl
@[simp] theorem State.eitReturn_mem (s : State) : (s.eitReturn).mem = s.mem := rfl
@[simp] theorem State.eitReturn_vectors (s : State) : (s.eitReturn).vectors = s.vectors := rfl
@[simp] theorem State.eitReturn_memMap (s : State) : (s.eitReturn).memMap = s.memMap := rfl
@[simp] theorem State.eitReturn_device (s : State) : (s.eitReturn).device = s.device := rfl
@[simp] theorem State.eitReturn_inputs (s : State) : (s.eitReturn).inputs = s.inputs := rfl
@[simp] theorem State.eitReturn_drawIndex (s : State) : (s.eitReturn).drawIndex = s.drawIndex := rfl

@[simp] theorem State.tick_gprs (s : State) : (s.tick).gprs = s.gprs := rfl
@[simp] theorem State.tick_spi (s : State) : (s.tick).spi = s.spi := rfl
@[simp] theorem State.tick_spu (s : State) : (s.tick).spu = s.spu := rfl
@[simp] theorem State.tick_psw (s : State) : (s.tick).psw = s.psw := rfl
@[simp] theorem State.tick_fpsr (s : State) : (s.tick).fpsr = s.fpsr := rfl
@[simp] theorem State.tick_bpc (s : State) : (s.tick).bpc = s.bpc := rfl
@[simp] theorem State.tick_acc (s : State) : (s.tick).acc = s.acc := rfl
@[simp] theorem State.tick_pc (s : State) : (s.tick).pc = s.pc := rfl
@[simp] theorem State.tick_lock (s : State) : (s.tick).lock = s.lock := rfl
@[simp] theorem State.tick_mem (s : State) : (s.tick).mem = s.mem := rfl
@[simp] theorem State.tick_vectors (s : State) : (s.tick).vectors = s.vectors := rfl
@[simp] theorem State.tick_memMap (s : State) : (s.tick).memMap = s.memMap := rfl
@[simp] theorem State.tick_device (s : State) : (s.tick).device = s.device := rfl
@[simp] theorem State.tick_inputs (s : State) : (s.tick).inputs = s.inputs.tail := rfl
@[simp] theorem State.tick_drawIndex (s : State) : (s.tick).drawIndex = s.drawIndex + 1 := rfl

@[simp] theorem State.eitReturn_sm (s : State) : s.eitReturn.psw.sm = s.psw.bsm := rfl
@[simp] theorem State.eitReturn_ie (s : State) : s.eitReturn.psw.ie = s.psw.bie := rfl
@[simp] theorem State.eitReturn_c (s : State) : s.eitReturn.psw.c = s.psw.bc := rfl

@[simp] theorem State.hostReset_mem (s : State) : s.hostReset.mem = s.mem := rfl
@[simp] theorem State.hostReset_pc (s : State) : s.hostReset.pc = 0 := rfl
@[simp] theorem State.hostReset_bpc (s : State) : s.hostReset.bpc = 0 := rfl

@[simp] theorem State.writeReg_psw (s : State) (r : Reg) (v : Word) : (s.writeReg r v).psw = s.psw := by
  unfold State.writeReg
  split
  · rfl
  · split <;> rfl

@[simp] theorem State.writeReg_fpsr (s : State) (r : Reg) (v : Word) : (s.writeReg r v).fpsr = s.fpsr := by
  unfold State.writeReg
  split
  · rfl
  · split <;> rfl

@[simp] theorem State.writeReg_bpc (s : State) (r : Reg) (v : Word) : (s.writeReg r v).bpc = s.bpc := by
  unfold State.writeReg
  split
  · rfl
  · split <;> rfl

@[simp] theorem State.writeReg_acc (s : State) (r : Reg) (v : Word) : (s.writeReg r v).acc = s.acc := by
  unfold State.writeReg
  split
  · rfl
  · split <;> rfl

@[simp] theorem State.writeReg_pc (s : State) (r : Reg) (v : Word) : (s.writeReg r v).pc = s.pc := by
  unfold State.writeReg
  split
  · rfl
  · split <;> rfl

@[simp] theorem State.writeReg_lock (s : State) (r : Reg) (v : Word) : (s.writeReg r v).lock = s.lock := by
  unfold State.writeReg
  split
  · rfl
  · split <;> rfl

@[simp] theorem State.writeReg_mem (s : State) (r : Reg) (v : Word) : (s.writeReg r v).mem = s.mem := by
  unfold State.writeReg
  split
  · rfl
  · split <;> rfl

@[simp] theorem State.writeReg_vectors (s : State) (r : Reg) (v : Word) : (s.writeReg r v).vectors = s.vectors := by
  unfold State.writeReg
  split
  · rfl
  · split <;> rfl

@[simp] theorem State.writeReg_memMap (s : State) (r : Reg) (v : Word) : (s.writeReg r v).memMap = s.memMap := by
  unfold State.writeReg
  split
  · rfl
  · split <;> rfl

@[simp] theorem State.writeReg_device (s : State) (r : Reg) (v : Word) : (s.writeReg r v).device = s.device := by
  unfold State.writeReg
  split
  · rfl
  · split <;> rfl

@[simp] theorem State.writeReg_inputs (s : State) (r : Reg) (v : Word) : (s.writeReg r v).inputs = s.inputs := by
  unfold State.writeReg
  split
  · rfl
  · split <;> rfl

@[simp] theorem State.writeReg_drawIndex (s : State) (r : Reg) (v : Word) : (s.writeReg r v).drawIndex = s.drawIndex := by
  unfold State.writeReg
  split
  · rfl
  · split <;> rfl

@[simp] theorem State.writeAs_gprs (s : State) (a : Word) (n : Access) (v : Word) (m : Memory) :
    (s.writeAs a n v m).gprs = s.gprs := by
  unfold State.writeAs
  cases s.holding a <;> rfl
@[simp] theorem State.writeAs_spi (s : State) (a : Word) (n : Access) (v : Word) (m : Memory) :
    (s.writeAs a n v m).spi = s.spi := by
  unfold State.writeAs
  cases s.holding a <;> rfl
@[simp] theorem State.writeAs_spu (s : State) (a : Word) (n : Access) (v : Word) (m : Memory) :
    (s.writeAs a n v m).spu = s.spu := by
  unfold State.writeAs
  cases s.holding a <;> rfl
@[simp] theorem State.writeAs_psw (s : State) (a : Word) (n : Access) (v : Word) (m : Memory) :
    (s.writeAs a n v m).psw = s.psw := by
  unfold State.writeAs
  cases s.holding a <;> rfl
@[simp] theorem State.writeAs_fpsr (s : State) (a : Word) (n : Access) (v : Word) (m : Memory) :
    (s.writeAs a n v m).fpsr = s.fpsr := by
  unfold State.writeAs
  cases s.holding a <;> rfl
@[simp] theorem State.writeAs_bpc (s : State) (a : Word) (n : Access) (v : Word) (m : Memory) :
    (s.writeAs a n v m).bpc = s.bpc := by
  unfold State.writeAs
  cases s.holding a <;> rfl
@[simp] theorem State.writeAs_acc (s : State) (a : Word) (n : Access) (v : Word) (m : Memory) :
    (s.writeAs a n v m).acc = s.acc := by
  unfold State.writeAs
  cases s.holding a <;> rfl
@[simp] theorem State.writeAs_pc (s : State) (a : Word) (n : Access) (v : Word) (m : Memory) :
    (s.writeAs a n v m).pc = s.pc := by
  unfold State.writeAs
  cases s.holding a <;> rfl
@[simp] theorem State.writeAs_lock (s : State) (a : Word) (n : Access) (v : Word) (m : Memory) :
    (s.writeAs a n v m).lock = s.lock := by
  unfold State.writeAs
  cases s.holding a <;> rfl
@[simp] theorem State.writeAs_mem (s : State) (a : Word) (n : Access) (v : Word) (m : Memory) :
    (s.writeAs a n v m).mem = if s.holding a = .ram then m else s.mem := by
  unfold State.writeAs
  cases s.holding a <;> simp
@[simp] theorem State.writeAs_vectors (s : State) (a : Word) (n : Access) (v : Word) (m : Memory) :
    (s.writeAs a n v m).vectors = s.vectors := by
  unfold State.writeAs
  cases s.holding a <;> rfl
@[simp] theorem State.writeAs_memMap (s : State) (a : Word) (n : Access) (v : Word) (m : Memory) :
    (s.writeAs a n v m).memMap = s.memMap := by
  unfold State.writeAs
  cases s.holding a <;> rfl
@[simp] theorem State.writeAs_device (s : State) (a : Word) (n : Access) (v : Word) (m : Memory) :
    (s.writeAs a n v m).device = if s.holding a = .device then Config.deviceAfterWrite s.drawIndex s.device a n v else s.device := by
  unfold State.writeAs
  cases s.holding a <;> simp
@[simp] theorem State.writeAs_inputs (s : State) (a : Word) (n : Access) (v : Word) (m : Memory) :
    (s.writeAs a n v m).inputs = s.inputs := by
  unfold State.writeAs
  cases s.holding a <;> rfl
@[simp] theorem State.writeAs_drawIndex (s : State) (a : Word) (n : Access) (v : Word) (m : Memory) :
    (s.writeAs a n v m).drawIndex = s.drawIndex := by
  unfold State.writeAs
  cases s.holding a <;> rfl

@[simp] theorem State.storeWord_gprs (s : State) (a v : Word) :
    (s.storeWord a v).gprs = s.gprs :=
  s.writeAs_gprs a .word v _
@[simp] theorem State.storeWord_spi (s : State) (a v : Word) :
    (s.storeWord a v).spi = s.spi :=
  s.writeAs_spi a .word v _
@[simp] theorem State.storeWord_spu (s : State) (a v : Word) :
    (s.storeWord a v).spu = s.spu :=
  s.writeAs_spu a .word v _
@[simp] theorem State.storeWord_psw (s : State) (a v : Word) :
    (s.storeWord a v).psw = s.psw :=
  s.writeAs_psw a .word v _
@[simp] theorem State.storeWord_fpsr (s : State) (a v : Word) :
    (s.storeWord a v).fpsr = s.fpsr :=
  s.writeAs_fpsr a .word v _
@[simp] theorem State.storeWord_bpc (s : State) (a v : Word) :
    (s.storeWord a v).bpc = s.bpc :=
  s.writeAs_bpc a .word v _
@[simp] theorem State.storeWord_acc (s : State) (a v : Word) :
    (s.storeWord a v).acc = s.acc :=
  s.writeAs_acc a .word v _
@[simp] theorem State.storeWord_pc (s : State) (a v : Word) :
    (s.storeWord a v).pc = s.pc :=
  s.writeAs_pc a .word v _
@[simp] theorem State.storeWord_lock (s : State) (a v : Word) :
    (s.storeWord a v).lock = s.lock :=
  s.writeAs_lock a .word v _
@[simp] theorem State.storeWord_mem (s : State) (a v : Word) :
    (s.storeWord a v).mem = if s.holding a = .ram then s.mem.writeWord a v else s.mem :=
  s.writeAs_mem a .word v _
@[simp] theorem State.storeWord_vectors (s : State) (a v : Word) :
    (s.storeWord a v).vectors = s.vectors :=
  s.writeAs_vectors a .word v _
@[simp] theorem State.storeWord_memMap (s : State) (a v : Word) :
    (s.storeWord a v).memMap = s.memMap :=
  s.writeAs_memMap a .word v _
@[simp] theorem State.storeWord_device (s : State) (a v : Word) :
    (s.storeWord a v).device = if s.holding a = .device then Config.deviceAfterWrite s.drawIndex s.device a .word v else s.device :=
  s.writeAs_device a .word v _
@[simp] theorem State.storeWord_inputs (s : State) (a v : Word) :
    (s.storeWord a v).inputs = s.inputs :=
  s.writeAs_inputs a .word v _
@[simp] theorem State.storeWord_drawIndex (s : State) (a v : Word) :
    (s.storeWord a v).drawIndex = s.drawIndex :=
  s.writeAs_drawIndex a .word v _

@[simp] theorem State.storeHalf_gprs (s : State) (a : Word) (v : Half) :
    (s.storeHalf a v).gprs = s.gprs :=
  s.writeAs_gprs a .half (v.setWidth 32) _
@[simp] theorem State.storeHalf_spi (s : State) (a : Word) (v : Half) :
    (s.storeHalf a v).spi = s.spi :=
  s.writeAs_spi a .half (v.setWidth 32) _
@[simp] theorem State.storeHalf_spu (s : State) (a : Word) (v : Half) :
    (s.storeHalf a v).spu = s.spu :=
  s.writeAs_spu a .half (v.setWidth 32) _
@[simp] theorem State.storeHalf_psw (s : State) (a : Word) (v : Half) :
    (s.storeHalf a v).psw = s.psw :=
  s.writeAs_psw a .half (v.setWidth 32) _
@[simp] theorem State.storeHalf_fpsr (s : State) (a : Word) (v : Half) :
    (s.storeHalf a v).fpsr = s.fpsr :=
  s.writeAs_fpsr a .half (v.setWidth 32) _
@[simp] theorem State.storeHalf_bpc (s : State) (a : Word) (v : Half) :
    (s.storeHalf a v).bpc = s.bpc :=
  s.writeAs_bpc a .half (v.setWidth 32) _
@[simp] theorem State.storeHalf_acc (s : State) (a : Word) (v : Half) :
    (s.storeHalf a v).acc = s.acc :=
  s.writeAs_acc a .half (v.setWidth 32) _
@[simp] theorem State.storeHalf_pc (s : State) (a : Word) (v : Half) :
    (s.storeHalf a v).pc = s.pc :=
  s.writeAs_pc a .half (v.setWidth 32) _
@[simp] theorem State.storeHalf_lock (s : State) (a : Word) (v : Half) :
    (s.storeHalf a v).lock = s.lock :=
  s.writeAs_lock a .half (v.setWidth 32) _
@[simp] theorem State.storeHalf_mem (s : State) (a : Word) (v : Half) :
    (s.storeHalf a v).mem = if s.holding a = .ram then s.mem.writeHalf a v else s.mem :=
  s.writeAs_mem a .half (v.setWidth 32) _
@[simp] theorem State.storeHalf_vectors (s : State) (a : Word) (v : Half) :
    (s.storeHalf a v).vectors = s.vectors :=
  s.writeAs_vectors a .half (v.setWidth 32) _
@[simp] theorem State.storeHalf_memMap (s : State) (a : Word) (v : Half) :
    (s.storeHalf a v).memMap = s.memMap :=
  s.writeAs_memMap a .half (v.setWidth 32) _
@[simp] theorem State.storeHalf_device (s : State) (a : Word) (v : Half) :
    (s.storeHalf a v).device = if s.holding a = .device then Config.deviceAfterWrite s.drawIndex s.device a .half (v.setWidth 32) else s.device :=
  s.writeAs_device a .half (v.setWidth 32) _
@[simp] theorem State.storeHalf_inputs (s : State) (a : Word) (v : Half) :
    (s.storeHalf a v).inputs = s.inputs :=
  s.writeAs_inputs a .half (v.setWidth 32) _
@[simp] theorem State.storeHalf_drawIndex (s : State) (a : Word) (v : Half) :
    (s.storeHalf a v).drawIndex = s.drawIndex :=
  s.writeAs_drawIndex a .half (v.setWidth 32) _

@[simp] theorem State.storeByte_gprs (s : State) (a : Word) (v : Byte) :
    (s.storeByte a v).gprs = s.gprs :=
  s.writeAs_gprs a .byte (v.setWidth 32) _
@[simp] theorem State.storeByte_spi (s : State) (a : Word) (v : Byte) :
    (s.storeByte a v).spi = s.spi :=
  s.writeAs_spi a .byte (v.setWidth 32) _
@[simp] theorem State.storeByte_spu (s : State) (a : Word) (v : Byte) :
    (s.storeByte a v).spu = s.spu :=
  s.writeAs_spu a .byte (v.setWidth 32) _
@[simp] theorem State.storeByte_psw (s : State) (a : Word) (v : Byte) :
    (s.storeByte a v).psw = s.psw :=
  s.writeAs_psw a .byte (v.setWidth 32) _
@[simp] theorem State.storeByte_fpsr (s : State) (a : Word) (v : Byte) :
    (s.storeByte a v).fpsr = s.fpsr :=
  s.writeAs_fpsr a .byte (v.setWidth 32) _
@[simp] theorem State.storeByte_bpc (s : State) (a : Word) (v : Byte) :
    (s.storeByte a v).bpc = s.bpc :=
  s.writeAs_bpc a .byte (v.setWidth 32) _
@[simp] theorem State.storeByte_acc (s : State) (a : Word) (v : Byte) :
    (s.storeByte a v).acc = s.acc :=
  s.writeAs_acc a .byte (v.setWidth 32) _
@[simp] theorem State.storeByte_pc (s : State) (a : Word) (v : Byte) :
    (s.storeByte a v).pc = s.pc :=
  s.writeAs_pc a .byte (v.setWidth 32) _
@[simp] theorem State.storeByte_lock (s : State) (a : Word) (v : Byte) :
    (s.storeByte a v).lock = s.lock :=
  s.writeAs_lock a .byte (v.setWidth 32) _
@[simp] theorem State.storeByte_mem (s : State) (a : Word) (v : Byte) :
    (s.storeByte a v).mem = if s.holding a = .ram then s.mem.writeByte a v else s.mem :=
  s.writeAs_mem a .byte (v.setWidth 32) _
@[simp] theorem State.storeByte_vectors (s : State) (a : Word) (v : Byte) :
    (s.storeByte a v).vectors = s.vectors :=
  s.writeAs_vectors a .byte (v.setWidth 32) _
@[simp] theorem State.storeByte_memMap (s : State) (a : Word) (v : Byte) :
    (s.storeByte a v).memMap = s.memMap :=
  s.writeAs_memMap a .byte (v.setWidth 32) _
@[simp] theorem State.storeByte_device (s : State) (a : Word) (v : Byte) :
    (s.storeByte a v).device = if s.holding a = .device then Config.deviceAfterWrite s.drawIndex s.device a .byte (v.setWidth 32) else s.device :=
  s.writeAs_device a .byte (v.setWidth 32) _
@[simp] theorem State.storeByte_inputs (s : State) (a : Word) (v : Byte) :
    (s.storeByte a v).inputs = s.inputs :=
  s.writeAs_inputs a .byte (v.setWidth 32) _
@[simp] theorem State.storeByte_drawIndex (s : State) (a : Word) (v : Byte) :
    (s.storeByte a v).drawIndex = s.drawIndex :=
  s.writeAs_drawIndex a .byte (v.setWidth 32) _

@[simp] theorem State.afterRead_gprs (s : State) (a : Word) (n : Access) :
    (s.afterRead a n).gprs = s.gprs := by
  unfold State.afterRead
  cases s.holding a <;> rfl
@[simp] theorem State.afterRead_spi (s : State) (a : Word) (n : Access) :
    (s.afterRead a n).spi = s.spi := by
  unfold State.afterRead
  cases s.holding a <;> rfl
@[simp] theorem State.afterRead_spu (s : State) (a : Word) (n : Access) :
    (s.afterRead a n).spu = s.spu := by
  unfold State.afterRead
  cases s.holding a <;> rfl
@[simp] theorem State.afterRead_psw (s : State) (a : Word) (n : Access) :
    (s.afterRead a n).psw = s.psw := by
  unfold State.afterRead
  cases s.holding a <;> rfl
@[simp] theorem State.afterRead_fpsr (s : State) (a : Word) (n : Access) :
    (s.afterRead a n).fpsr = s.fpsr := by
  unfold State.afterRead
  cases s.holding a <;> rfl
@[simp] theorem State.afterRead_bpc (s : State) (a : Word) (n : Access) :
    (s.afterRead a n).bpc = s.bpc := by
  unfold State.afterRead
  cases s.holding a <;> rfl
@[simp] theorem State.afterRead_acc (s : State) (a : Word) (n : Access) :
    (s.afterRead a n).acc = s.acc := by
  unfold State.afterRead
  cases s.holding a <;> rfl
@[simp] theorem State.afterRead_pc (s : State) (a : Word) (n : Access) :
    (s.afterRead a n).pc = s.pc := by
  unfold State.afterRead
  cases s.holding a <;> rfl
@[simp] theorem State.afterRead_lock (s : State) (a : Word) (n : Access) :
    (s.afterRead a n).lock = s.lock := by
  unfold State.afterRead
  cases s.holding a <;> rfl
@[simp] theorem State.afterRead_mem (s : State) (a : Word) (n : Access) :
    (s.afterRead a n).mem = s.mem := by
  unfold State.afterRead
  cases s.holding a <;> rfl
@[simp] theorem State.afterRead_vectors (s : State) (a : Word) (n : Access) :
    (s.afterRead a n).vectors = s.vectors := by
  unfold State.afterRead
  cases s.holding a <;> rfl
@[simp] theorem State.afterRead_memMap (s : State) (a : Word) (n : Access) :
    (s.afterRead a n).memMap = s.memMap := by
  unfold State.afterRead
  cases s.holding a <;> rfl
@[simp] theorem State.afterRead_device (s : State) (a : Word) (n : Access) :
    (s.afterRead a n).device = if s.holding a = .device then Config.deviceAfterRead s.drawIndex s.device a n else s.device := by
  unfold State.afterRead
  cases s.holding a <;> simp
@[simp] theorem State.afterRead_inputs (s : State) (a : Word) (n : Access) :
    (s.afterRead a n).inputs = s.inputs := by
  unfold State.afterRead
  cases s.holding a <;> rfl
@[simp] theorem State.afterRead_drawIndex (s : State) (a : Word) (n : Access) :
    (s.afterRead a n).drawIndex = s.drawIndex := by
  unfold State.afterRead
  cases s.holding a <;> rfl

/-- SPI after a register write: it is R15 while SM is 0 (R33). -/
theorem State.writeReg_spi (s : State) (r : Reg) (v : Word) :
    (s.writeReg r v).spi = if r = 15 ∧ s.psw.sm = false then v else s.spi := by
  unfold State.writeReg
  have h15 : r = 15 ↔ ¬ r.val < 15 := by rw [Fin.ext_iff]; show r.val = 15 ↔ _; omega
  split <;> rename_i h
  · simp [h15, h]
  · cases hs : s.psw.sm <;> simp [h15, h]

/-- SPU after a register write: it is R15 while SM is 1 (R33). -/
theorem State.writeReg_spu (s : State) (r : Reg) (v : Word) :
    (s.writeReg r v).spu = if r = 15 ∧ s.psw.sm = true then v else s.spu := by
  unfold State.writeReg
  have h15 : r = 15 ↔ ¬ r.val < 15 := by rw [Fin.ext_iff]; show r.val = 15 ↔ _; omega
  split <;> rename_i h
  · simp [h15, h]
  · cases hs : s.psw.sm <;> simp [h15, h]

/-- A register written reads as what was written (R33). -/
@[simp] theorem State.readReg_writeReg_same (s : State) (r : Reg) (v : Word) :
    (s.writeReg r v).readReg r = v := by
  unfold State.readReg State.writeReg
  split
  · simp
  · cases hs : s.psw.sm <;> simp [hs]

/-- A register not written reads as before (R33). -/
theorem State.readReg_writeReg_other (s : State) (d r : Reg) (v : Word) (h : r ≠ d) :
    (s.writeReg d v).readReg r = s.readReg r := by
  have hv : r.val ≠ d.val := fun e => h (Fin.ext e)
  unfold State.readReg State.writeReg
  by_cases hr : r.val < 15 <;> by_cases hd : d.val < 15
  · simp [hr, hd, Vector.getElem_set_ne, Ne.symm hv]
  · cases s.psw.sm <;> simp [hr, hd]
  · simp [hr, hd]
  · exact absurd (by omega : r.val = d.val) hv

/-- Reading a register after writing one (R33). -/
theorem State.readReg_writeReg (s : State) (d r : Reg) (v : Word) :
    (s.writeReg d v).readReg r = if r = d then v else s.readReg r := by
  split <;> rename_i h
  · subst h; simp
  · exact s.readReg_writeReg_other d r v h

/-- Registers are read from the register file, the stack pointers and SM alone. -/
theorem State.readReg_congr {s t : State} (hg : t.gprs = s.gprs) (hi : t.spi = s.spi) (hu : t.spu = s.spu)
    (hm : t.psw.sm = s.psw.sm) (r : Reg) : t.readReg r = s.readReg r := by
  simp [State.readReg, hg, hi, hu, hm]

@[simp] theorem State.advance_readReg (s : State) (n : Word) (r : Reg) : (s.advance n).readReg r = s.readReg r := rfl
@[simp] theorem State.goto_readReg (s : State) (t : Word) (r : Reg) : (s.goto t).readReg r = s.readReg r := rfl
@[simp] theorem State.setC_readReg (s : State) (c : Bool) (r : Reg) : (s.setC c).readReg r = s.readReg r := rfl
@[simp] theorem State.setLock_readReg (s : State) (b : Bool) (r : Reg) : (s.setLock b).readReg r = s.readReg r := rfl
@[simp] theorem State.setAcc_readReg (s : State) (v : Int) (r : Reg) : (s.setAcc v).readReg r = s.readReg r := rfl
@[simp] theorem State.tick_readReg (s : State) (r : Reg) : (s.tick).readReg r = s.readReg r := rfl
@[simp] theorem State.writeAs_readReg (s : State) (a : Word) (n : Access) (v : Word) (m : Memory) (r : Reg) :
    (s.writeAs a n v m).readReg r = s.readReg r := State.readReg_congr (by simp) (by simp) (by simp) (by simp) r
@[simp] theorem State.storeWord_readReg (s : State) (a v : Word) (r : Reg) :
    (s.storeWord a v).readReg r = s.readReg r := State.readReg_congr (by simp) (by simp) (by simp) (by simp) r
@[simp] theorem State.storeHalf_readReg (s : State) (a : Word) (v : Half) (r : Reg) :
    (s.storeHalf a v).readReg r = s.readReg r := State.readReg_congr (by simp) (by simp) (by simp) (by simp) r
@[simp] theorem State.storeByte_readReg (s : State) (a : Word) (v : Byte) (r : Reg) :
    (s.storeByte a v).readReg r = s.readReg r := State.readReg_congr (by simp) (by simp) (by simp) (by simp) r
@[simp] theorem State.afterRead_readReg (s : State) (a : Word) (n : Access) (r : Reg) :
    (s.afterRead a n).readReg r = s.readReg r := State.readReg_congr (by simp) (by simp) (by simp) (by simp) r

/-- What an address holds depends on the map alone. -/
theorem State.holding_congr {s t : State} (h : t.memMap = s.memMap) (a : Word) : t.holding a = s.holding a := by
  unfold State.holding
  rw [h]

@[simp] theorem State.afterRead_holding (s : State) (a b : Word) (n : Access) :
    (s.afterRead a n).holding b = s.holding b := State.holding_congr (by simp) b
@[simp] theorem State.tick_holding (s : State) (a : Word) : s.tick.holding a = s.holding a := rfl

end Sys2Proof.Machine
end

