-- ==== Sys2Proof/Laws/Ops.lean ====
section
/-! SUPPORT. For each shared operation of the meanings one lemma that says once everything it can do: if it
answers a next state, what that state is in the terms of Safety.lean. A proof cites these and never
unfolds the operation. -/

namespace Sys2Proof.Machine

/-! ## Writing a register -/

/-- A register write changes no other register. -/
theorem onlyRegs_writeReg (s : State) (d : Reg) (v : Word) : OnlyRegs [d] s (s.writeReg d v) where
  others r h := s.readReg_writeReg_other d r v (by simpa using h)
  spi h := by
    rw [State.writeReg_spi, if_neg]
    rintro ⟨rfl, hs⟩
    simp [hs] at h
  spu h := by
    rw [State.writeReg_spu, if_neg]
    rintro ⟨rfl, hs⟩
    simp [hs] at h

/-- Two register writes change no other register. -/
theorem onlyRegs_writeReg_writeReg (s : State) (d r : Reg) (v w : Word) :
    OnlyRegs [d, r] s ((s.writeReg r w).writeReg d v) where
  others q h := by
    simp only [List.mem_cons, List.not_mem_nil, or_false, not_or] at h
    rw [State.readReg_writeReg_other _ _ _ _ h.1, State.readReg_writeReg_other _ _ _ _ h.2]
  spi h := by
    rw [State.writeReg_spi, if_neg, State.writeReg_spi, if_neg]
    · rintro ⟨rfl, hs⟩
      simp [hs] at h
    · rintro ⟨rfl, hs⟩
      rw [State.writeReg_psw] at hs
      simp [hs] at h
  spu h := by
    rw [State.writeReg_spu, if_neg, State.writeReg_spu, if_neg]
    · rintro ⟨rfl, hs⟩
      simp [hs] at h
    · rintro ⟨rfl, hs⟩
      rw [State.writeReg_psw] at hs
      simp [hs] at h

/-- What a state that agrees on the registers and SM changes, another does too. -/
theorem OnlyRegs.congr {ds : List Reg} {s t u : State} (h : OnlyRegs ds s t) (hg : u.gprs = t.gprs)
    (hi : u.spi = t.spi) (hu : u.spu = t.spu) (hm : u.psw.sm = t.psw.sm) : OnlyRegs ds s u where
  others r hr := (State.readReg_congr hg hi hu hm r).trans (h.others r hr)
  spi hr := hi.trans (h.spi hr)
  spu hr := hu.trans (h.spu hr)

/-- `writeNext` writes one register and moves the pc. -/
theorem writeNext_next {s t : State} {d : Reg} {v len : Word} (h : writeNext s d v len = .next t) :
    RegResult d v s t ∧ t.pc = s.pc + len := by
  cases h
  refine ⟨⟨by simp, (onlyRegs_writeReg s d v).congr rfl rfl rfl rfl, ?_⟩, by simp⟩
  constructor <;> simp [SameMemory]

/-- `writeFlagNext` writes one register and C and moves the pc. -/
theorem writeFlagNext_next {s t : State} {d : Reg} {v : Word} {c : Bool} {len : Word}
    (h : writeFlagNext s d v c len = .next t) : RegFlagResult d v c s t ∧ t.pc = s.pc + len := by
  cases h
  refine ⟨⟨by simp, by simp, (onlyRegs_writeReg s d v).congr rfl rfl rfl rfl, ?_⟩, by simp⟩
  constructor <;> simp [SameMemory]

/-- `flagNext` writes C and moves the pc. -/
theorem flagNext_next {s t : State} {c : Bool} {len : Word} (h : flagNext s c len = .next t) :
    FlagResult c s t ∧ t.pc = s.pc + len := by
  cases h
  refine ⟨⟨by simp, ⟨rfl, rfl, rfl⟩, ?_⟩, by simp⟩
  constructor <;> simp [SameMemory]

/-- `accNext` writes the accumulator and moves the pc. -/
theorem accNext_next {s t : State} {v : Int} (h : accNext s v = .next t) :
    AccResult (BitVec.ofInt 56 v) s t ∧ t.pc = s.pc + 2 := by
  cases h
  refine ⟨⟨rfl, ⟨rfl, rfl, rfl⟩, ?_⟩, by simp⟩
  constructor <;> simp [SameMemory]

/-- `divideNext` writes its value, or with a zero divisor nothing, and moves the pc. -/
theorem divideNext_next {s t : State} {d r : Reg} {v : Word} (h : divideNext s d r v = .next t) :
    RegResult d (if s.readReg r = 0 then s.readReg d else v) s t ∧ t.pc = s.pc + 4 := by
  unfold divideNext at h
  split at h <;> rename_i h0
  · cases h
    rw [if_pos h0]
    refine ⟨⟨rfl, ⟨fun _ _ => rfl, fun _ => rfl, fun _ => rfl⟩, ?_⟩, by simp⟩
    constructor <;> simp [SameMemory]
  · rw [if_neg h0]
    exact writeNext_next h

/-! ## Memory accesses -/

theorem wordAligned_iff (a : Word) : wordAligned a = true ↔ a.toNat % 4 = 0 := by
  simp [wordAligned, ← BitVec.toNat_inj]

theorem halfAligned_iff (a : Word) : halfAligned a = true ↔ a.toNat % 2 = 0 := by
  simp [halfAligned, ← BitVec.toNat_inj]

/-- `onWordAddress` answers the state it is given, or takes the address exception. -/
theorem onWordAddress_next {s u t : State} {ea : Word} (h : onWordAddress s ea u = .next t) :
    (ea.toNat % 4 = 0 ∧ t = u) ∨ (ea.toNat % 4 ≠ 0 ∧ t = s.raiseAe) := by
  unfold onWordAddress at h
  split at h <;> rename_i ha <;> cases h
  · exact .inl ⟨(wordAligned_iff ea).1 ha, rfl⟩
  · exact .inr ⟨fun e => ha ((wordAligned_iff ea).2 e), rfl⟩

/-- `onHalfAddress` answers the state it is given, or takes the address exception. -/
theorem onHalfAddress_next {s u t : State} {ea : Word} (h : onHalfAddress s ea u = .next t) :
    (ea.toNat % 2 = 0 ∧ t = u) ∨ (ea.toNat % 2 ≠ 0 ∧ t = s.raiseAe) := by
  unfold onHalfAddress at h
  split at h <;> rename_i ha <;> cases h
  · exact .inl ⟨(halfAligned_iff ea).1 ha, rfl⟩
  · exact .inr ⟨fun e => ha ((halfAligned_iff ea).2 e), rfl⟩

theorem onWordAddress_aligned {s u : State} {ea : Word} (h : ea.toNat % 4 = 0) :
    onWordAddress s ea u = .next u := if_pos ((wordAligned_iff ea).2 h)

theorem onWordAddress_misaligned {s u : State} {ea : Word} (h : ea.toNat % 4 ≠ 0) :
    onWordAddress s ea u = .next s.raiseAe := if_neg fun e => h ((wordAligned_iff ea).1 e)

theorem onHalfAddress_aligned {s u : State} {ea : Word} (h : ea.toNat % 2 = 0) :
    onHalfAddress s ea u = .next u := if_pos ((halfAligned_iff ea).2 h)

theorem onHalfAddress_misaligned {s u : State} {ea : Word} (h : ea.toNat % 2 ≠ 0) :
    onHalfAddress s ea u = .next s.raiseAe := if_neg fun e => h ((halfAligned_iff ea).1 e)

/-- What a read answers is what R96 gives. -/
theorem readGives_readAs {w : Nat} (s : State) (a : Word) (n : Access) (stored : BitVec w) :
    ReadGives s a n stored (s.readAs a n stored) := by
  unfold ReadGives State.readAs
  cases s.holding a <;> rfl

/-- A load writes its register with what the read gives, may change a device, and moves the pc. -/
theorem loadResult_writeReg {w : Nat} (s : State) (d : Reg) (ext : BitVec w → Word) (a : Word) (n : Access)
    (stored : BitVec w) (len : Word) :
    LoadResult d ext a n stored [] s
      (((s.afterRead a n).writeReg d (ext (s.readAs a n stored))).advance len) where
  value := ⟨_, readGives_readAs s a n stored, by simp⟩
  device := by simp [deviceAfter]
  regs := by
    constructor
    · intro r hr
      simp [State.readReg_writeReg_other _ d r _ (by simpa using hr)]
    · intro h
      simpa using (onlyRegs_writeReg (s.afterRead a n) d _).spi (by simpa using h)
    · intro h
      simpa using (onlyRegs_writeReg (s.afterRead a n) d _).spu (by simpa using h)
  frame := by constructor <;> simp [SameMemory]

/-- `loadWord` loads at an aligned address, else takes the address exception. -/
theorem loadWord_next {s t : State} {d : Reg} {ea len : Word} (h : loadWord s d ea len = .next t) :
    (ea.toNat % 4 = 0 ∧ LoadResult d id ea .word (s.mem.readWord ea) [] s t ∧ t.pc = s.pc + len) ∨
      (ea.toNat % 4 ≠ 0 ∧ t = s.raiseAe) := by
  rcases onWordAddress_next h with ⟨ha, rfl⟩ | ha
  · exact .inl ⟨ha, loadResult_writeReg s d id ea .word _ len, by simp⟩
  · exact .inr ha

/-- `loadHalf` loads at an aligned address, else takes the address exception. -/
theorem loadHalf_next {s t : State} {ext : Half → Word} {d : Reg} {ea len : Word}
    (h : loadHalf s ext d ea len = .next t) :
    (ea.toNat % 2 = 0 ∧ LoadResult d ext ea .half (s.mem.readHalf ea) [] s t ∧ t.pc = s.pc + len) ∨
      (ea.toNat % 2 ≠ 0 ∧ t = s.raiseAe) := by
  rcases onHalfAddress_next h with ⟨ha, rfl⟩ | ha
  · exact .inl ⟨ha, loadResult_writeReg s d ext ea .half _ len, by simp⟩
  · exact .inr ha

/-- `loadByte` always loads. -/
theorem loadByte_next {s t : State} {ext : Byte → Word} {d : Reg} {ea len : Word}
    (h : loadByte s ext d ea len = .next t) :
    LoadResult d ext ea .byte (s.mem.readByte ea) [] s t ∧ t.pc = s.pc + len := by
  cases h
  exact ⟨loadResult_writeReg s d ext ea .byte _ len, by simp⟩

/-- A write has the effect that R97 gives, when its bytes are stored in ordinary memory. -/
theorem writeEffect_writeAs {s : State} {a : Word} {n : Access} {v : Word} {m : Memory} {stored : Prop}
    (h : s.holding a = .ram → stored) : WriteEffect a n v stored s (s.writeAs a n v m) := by
  unfold WriteEffect
  cases ha : s.holding a
  · exact ⟨h ha, by simp [ha]⟩
  all_goals simp [ha, SameMemory]

/-- A word store: its four bytes in ordinary memory, else what MEM_MAP says (R97). -/
theorem wordWritten_storeWord (s : State) (ea v : Word) (h : s.mem.wf = true) :
    WordWritten ea v s (s.storeWord ea v) := by
  refine writeEffect_writeAs fun ha => ?_
  obtain ⟨h0, h1, h2, h3⟩ := Memory.readByte_writeWord s.mem ea v h
  constructor
  · simpa [ha] using h0
  · simpa [ha] using h1
  · simpa [ha] using h2
  · simpa [ha] using h3
  · intro a n0 n1 n2 n3
    simpa [ha] using Memory.readByte_writeWord_other s.mem ea a v n0 n1 n2 n3

/-- A halfword store: its two bytes in ordinary memory, else what MEM_MAP says (R97). -/
theorem halfWritten_storeHalf (s : State) (ea : Word) (v : Half) (h : s.mem.wf = true) :
    HalfWritten ea v s (s.storeHalf ea v) := by
  refine writeEffect_writeAs fun ha => ?_
  obtain ⟨h0, h1⟩ := Memory.readByte_writeHalf s.mem ea v h
  exact ⟨by simpa [ha] using h0, by simpa [ha] using h1, fun a n0 n1 => by
    simpa [ha] using Memory.readByte_writeHalf_other s.mem ea a v n0 n1⟩

/-- A byte store: its byte in ordinary memory, else what MEM_MAP says (R97). -/
theorem byteWritten_storeByte (s : State) (ea : Word) (v : Byte) (h : s.mem.wf = true) :
    ByteWritten ea v s (s.storeByte ea v) := by
  refine writeEffect_writeAs fun ha => ?_
  exact ⟨by simpa [ha] using Memory.readByte_writeByte_same s.mem ea v h, fun a n => by
    simpa [ha] using Memory.readByte_writeByte_other s.mem ea a v n⟩

/-- `modifyByte` replaces one byte, clears the LOCK bit and moves the pc. -/
theorem modifyByte_next {s t : State} {ea : Word} {f : Byte → Byte} (hm : s.mem.wf = true)
    (h : modifyByte s ea f = .next t) :
    ByteModified ea f s t ∧ t.lock = false ∧ RegsKept s t ∧ Frame [.mem, .device, .lock] s t ∧
      t.pc = s.pc + 4 := by
  cases h
  refine ⟨?_, rfl, ⟨by simp, by simp, by simp⟩, ?_, by simp⟩
  · unfold ByteModified
    cases ha : s.holding ea
    · refine ⟨⟨?_, fun a n => ?_⟩, by simp [ha]⟩
      · simpa [ha, State.readByte, State.readAs] using Memory.readByte_writeByte_same s.mem ea _ hm
      · simpa [ha, State.readByte, State.readAs] using Memory.readByte_writeByte_other s.mem ea a _ n
    all_goals simp [ha, SameMemory, State.readByte, State.readAs]
  · constructor <;> simp

/-- A read changes the devices' state by its side effect and nothing else (R96). -/
theorem afterRead_eq (s : State) (a : Word) (n : Access) :
    s.afterRead a n = { s with device := deviceAfter s a n } := by
  unfold State.afterRead deviceAfter
  cases s.holding a <;> rfl

/-- What a fetch reads, by what MEM_MAP says of the word that holds the pc (R100). -/
theorem fetchedWord_reads (s : State) :
    ReadGives s (wordBase s.pc) .fetch (s.mem.readWord (wordBase s.pc)) s.fetchedWord :=
  readGives_readAs ..

/-- The address of the word that holds an address, as a number. -/
theorem wordBase_toNat (a : Word) : (wordBase a).toNat = a.toNat / 4 * 4 := by
  have bits : ∀ j : Fin 32, (0xFFFFFFFC : Word).getLsbD j.val = decide (2 ≤ j.val) := by decide
  have shifts : wordBase a = (a >>> 2) <<< 2 := by
    apply BitVec.eq_of_getLsbD_eq
    intro i hi
    simp only [wordBase, BitVec.getLsbD_and, bits ⟨i, hi⟩, BitVec.getLsbD_shiftLeft, BitVec.getLsbD_ushiftRight]
    by_cases h : 2 ≤ i
    · simp [h, hi, Nat.not_lt.2 h]
    · simp [h, Nat.lt_of_not_le h]
  have := a.isLt
  rw [shifts, BitVec.toNat_shiftLeft, BitVec.toNat_ushiftRight, Nat.shiftRight_eq_div_pow, Nat.shiftLeft_eq]
  omega

/-- At a word boundary the word's address is the address itself. -/
theorem wordBase_of_aligned {a : Word} (h : a.toNat % 4 = 0) : wordBase a = a := by
  apply BitVec.eq_of_toNat_eq
  rw [wordBase_toNat]
  omega

/-- An even address that is no word's is the low-order halfword of its word (R130). -/
theorem wordBase_add_two {a : Word} (h0 : a.getLsbD 0 = false) (h : a.toNat % 4 ≠ 0) :
    wordBase a + 2 = a := by
  have even : a.toNat % 2 = 0 := by simpa [BitVec.getLsbD, Nat.testBit_zero] using h0
  apply BitVec.eq_of_toNat_eq
  rw [BitVec.toNat_add, wordBase_toNat]
  have := a.isLt
  simp
  omega

/-- The low-order half of a word in memory is the halfword two bytes up (R92). -/
theorem Memory.readWord_low (m : Memory) (a : Word) : (m.readWord a).extractLsb' 0 16 = m.readHalf (a + 2) := by
  have h : a + 2 + 1 = a + 3 := by bv_omega
  apply BitVec.eq_of_getLsbD_eq
  intro i hi
  simp only [Memory.readWord, Memory.readHalf, h, BitVec.getLsbD_extractLsb', BitVec.getLsbD_append]
  by_cases h8 : i < 8
  · simp [h8, hi]
  · simp [h8, hi, show i - 8 < 8 by omega]

/-- Where the word that holds an even pc is RAM or ROM, a fetch reads the word, or the halfword at the pc
(R131). -/
theorem fetchBytes_memory (s : State) (h0 : s.pc.getLsbD 0 = false)
    (h : (s.holding (wordBase s.pc)).stored = true) :
    s.fetchBytes =
      if s.pc.toNat % 4 = 0 then bytesOfWord (s.mem.readWord s.pc) else bytesOfHalf (s.mem.readHalf s.pc) := by
  have hw : s.fetchedWord = s.mem.readWord (wordBase s.pc) := by
    unfold State.fetchedWord State.readAs
    cases hp : s.holding (wordBase s.pc) <;> simp_all [Holding.stored]
  unfold State.fetchBytes
  simp only [wordAligned_iff, hw]
  split
  · next ha => rw [wordBase_of_aligned ha]
  · next ha => rw [Memory.readWord_low, wordBase_add_two h0 ha]

/-- A step from an even pc that nothing from outside takes runs what its fetch decodes to (R131). -/
theorem step_runs {s : State} (h0 : s.pc.getLsbD 0 = false) (hr : s.input ≠ .reset)
    (hi : s.acceptsInterrupt = false) :
    step s = match s.tick.fetch with
      | .ok i => exec i s.tick.afterFetch
      | .error e => .refused (refusalOf e) := by
  unfold step
  rw [if_neg hr, h0, hi]
  rfl

/-! ## Branches -/

/-- `branchIf` changes only the pc. -/
theorem branchIf_next {s t : State} {taken : Bool} {target len : Word}
    (h : branchIf s taken target len = .next t) : OnlyPc (if taken then target else s.pc + len) s t := by
  cases h
  cases taken
  · exact ⟨rfl, ⟨rfl, rfl, rfl⟩, by constructor <;> simp [SameMemory]⟩
  · exact ⟨rfl, ⟨rfl, rfl, rfl⟩, by constructor <;> simp [SameMemory]⟩

/-- `branchLink` writes R14 and the pc. -/
theorem branchLink_next {s t : State} {target : Word} (h : branchLink s target = .next t) :
    LinkResult s.linkValue target s t := by
  cases h
  refine ⟨by simp, (onlyRegs_writeReg s 14 _).congr rfl rfl rfl rfl, rfl, ?_⟩
  constructor <;> simp [SameMemory]

/-! ## Exceptions -/

/-- EIT entry: what it saves, what it clears, where it goes, and that nothing else changes (R510 to R516). -/
theorem eitEntry_entered (s : State) (k : EitEvent) (savedPc : Word) :
    Entered (s.eitVector k) (savedPc &&& 0xFFFFFFFE) (if k = .ei then false else s.psw.sm) [] s
      (s.eitEntry k savedPc) := by
  constructor <;> try rfl
  · exact ⟨rfl, rfl, rfl⟩
  · constructor <;> simp [State.eitEntry, SameMemory]

/-- `raise AE` is the address trap. -/
theorem raiseAe_trap (s : State) : AddressTrap s s.raiseAe := eitEntry_entered s .ae s.pc

/-- The traps of a floating-point instruction are those of R405. -/
theorem fpTraps_iff (f : Fpsr) (x : Detected) : fpTraps f x = true ↔ FpRaises f x := by
  simp [fpTraps, FpRaises, or_assoc]

/-- `fpCommit` completes the instruction, or takes the floating-point exception (R405). -/
theorem fpCommit_next {s t : State} {d : Reg} {x : FpResult} (h : fpCommit s d x = .next t) :
    (FpRaises s.fpsr x.detected ∧ FpTrapped x.detected s t) ∨
      (¬ FpRaises s.fpsr x.detected ∧ FpCompleted d x s t ∧ t.pc = s.pc + 4) := by
  unfold fpCommit at h
  by_cases ht : fpTraps s.fpsr x.detected = true
  · refine .inl ⟨(fpTraps_iff _ _).1 ht, ?_⟩
    simp only [ht, if_true] at h
    cases h
    refine ⟨?_, ?_, ?_, ?_⟩
    · constructor <;> try rfl
      · exact ⟨rfl, rfl, rfl⟩
      · constructor <;> simp [State.raiseFpe, State.eitEntry, SameMemory]
    all_goals constructor <;> simp [State.raiseFpe, State.eitEntry, fpsrAfter, ht, fpsrWithCauses]
  · refine .inr ⟨fun e => ht ((fpTraps_iff _ _).2 e), ?_⟩
    simp only [ht] at h
    cases h
    refine ⟨⟨by simp, ?_, ?_, ?_, ?_, ?_⟩, by simp⟩
    iterate 3 constructor <;> simp [fpsrAfter, ht, fpsrWithCauses, fpsrWithFlags]
    · exact ⟨fun r hr => State.readReg_writeReg_other _ _ _ _ (by simpa using hr),
        fun hr => (onlyRegs_writeReg _ d x.value).spi hr, fun hr => (onlyRegs_writeReg _ d x.value).spu hr⟩
    · constructor <;> simp [SameMemory]

/-- `fpCommit` always answers a next state. -/
theorem fpCommit_runs (s : State) (d : Reg) (x : FpResult) : ∃ t, fpCommit s d x = .next t := by
  unfold fpCommit
  split <;> exact ⟨_, rfl⟩

/-! ## Control registers -/

/-- A control register number is one of the six, or reads and writes nothing (R38, R57). -/
theorem crNum_cases (cr : CrNum) :
    cr = 0 ∨ cr = 1 ∨ cr = 2 ∨ cr = 3 ∨ cr = 6 ∨ cr = 7 ∨
      (cr.assigned = false ∧ ∀ s : State, s.readCr cr = none ∧ ∀ v, s.writeCr cr v = none) := by
  fin_cases cr <;> simp [CrNum.assigned, State.readCr, State.writeCr]

/-- What a control register write changes. -/
theorem writeCr_some {s t : State} {cr : CrNum} {v : Word} (h : s.writeCr cr v = some t) :
    (cr = 0 ∧ t = { s with psw := pswOfWord v }) ∨ (cr = 1 ∧ t = s) ∨ (cr = 2 ∧ t = { s with spi := v }) ∨
      (cr = 3 ∧ t = { s with spu := v }) ∨ (cr = 6 ∧ t = { s with bpc := clearBit0 v }) ∨
      (cr = 7 ∧ t = { s with fpsr := fpsrAfterWrite s.fpsr v }) := by
  rcases crNum_cases cr with rfl | rfl | rfl | rfl | rfl | rfl | ⟨-, hn⟩
  all_goals first
    | (rw [(hn s).2 v] at h; cases h)
    | (simp only [State.writeCr] at h
       simp_all [eq_comm])

end Sys2Proof.Machine
end

