-- ==== Sys2Proof/Laws/PerInstr.lean ====
section
/-! SUPPORT. Statements made per instruction. `WordShape` is the length rule of spec/30_encoding.md
R130 and R135: a 16-bit instruction's code has its first bit 0, a 32-bit one's has it 1. -/

namespace Sys2Proof.Laws.WordShape

/-- The first bit of an instruction's code tells its length (R131, R135). -/
def Statement (i : Instr) : Prop :=
  match encode i with
  | .half h => h.msb = false
  | .word w => w.msb = true

theorem ldInd (d : Reg) (s : Reg) : Statement (.ldInd d s) := joinHalf_msb _ _ _ _
theorem ldPostInc (d : Reg) (s : Reg) : Statement (.ldPostInc d s) := joinHalf_msb _ _ _ _
theorem ldDisp (d : Reg) (disp : BitVec 16) (s : Reg) : Statement (.ldDisp d disp s) := joinWord_msb _ _ _ _ _
theorem ldbInd (d : Reg) (s : Reg) : Statement (.ldbInd d s) := joinHalf_msb _ _ _ _
theorem ldbDisp (d : Reg) (disp : BitVec 16) (s : Reg) : Statement (.ldbDisp d disp s) := joinWord_msb _ _ _ _ _
theorem ldubInd (d : Reg) (s : Reg) : Statement (.ldubInd d s) := joinHalf_msb _ _ _ _
theorem ldubDisp (d : Reg) (disp : BitVec 16) (s : Reg) : Statement (.ldubDisp d disp s) := joinWord_msb _ _ _ _ _
theorem ldhInd (d : Reg) (s : Reg) : Statement (.ldhInd d s) := joinHalf_msb _ _ _ _
theorem ldhDisp (d : Reg) (disp : BitVec 16) (s : Reg) : Statement (.ldhDisp d disp s) := joinWord_msb _ _ _ _ _
theorem lduhInd (d : Reg) (s : Reg) : Statement (.lduhInd d s) := joinHalf_msb _ _ _ _
theorem lduhDisp (d : Reg) (disp : BitVec 16) (s : Reg) : Statement (.lduhDisp d disp s) := joinWord_msb _ _ _ _ _
theorem lock (d : Reg) (s : Reg) : Statement (.lock d s) := joinHalf_msb _ _ _ _
theorem stInd (a : Reg) (b : Reg) : Statement (.stInd a b) := joinHalf_msb _ _ _ _
theorem stPreInc (a : Reg) (b : Reg) : Statement (.stPreInc a b) := joinHalf_msb _ _ _ _
theorem stPreDec (a : Reg) (b : Reg) : Statement (.stPreDec a b) := joinHalf_msb _ _ _ _
theorem stDisp (a : Reg) (disp : BitVec 16) (b : Reg) : Statement (.stDisp a disp b) := joinWord_msb _ _ _ _ _
theorem stbInd (a : Reg) (b : Reg) : Statement (.stbInd a b) := joinHalf_msb _ _ _ _
theorem stbDisp (a : Reg) (disp : BitVec 16) (b : Reg) : Statement (.stbDisp a disp b) := joinWord_msb _ _ _ _ _
theorem sthInd (a : Reg) (b : Reg) : Statement (.sthInd a b) := joinHalf_msb _ _ _ _
theorem sthPostInc (a : Reg) (b : Reg) : Statement (.sthPostInc a b) := joinHalf_msb _ _ _ _
theorem sthDisp (a : Reg) (disp : BitVec 16) (b : Reg) : Statement (.sthDisp a disp b) := joinWord_msb _ _ _ _ _
theorem unlock (a : Reg) (b : Reg) : Statement (.unlock a b) := joinHalf_msb _ _ _ _
theorem ld24 (d : Reg) (imm : BitVec 24) : Statement (.ld24 d imm) := joinWord_msb _ _ _ _ _
theorem ldi8 (d : Reg) (imm : BitVec 8) : Statement (.ldi8 d imm) := joinHalf_msb _ _ _ _
theorem ldi16 (d : Reg) (imm : BitVec 16) : Statement (.ldi16 d imm) := joinWord_msb _ _ _ _ _
theorem mv (d : Reg) (s : Reg) : Statement (.mv d s) := joinHalf_msb _ _ _ _
theorem mvfc (d : Reg) (cr : CrNum) : Statement (.mvfc d cr) := joinHalf_msb _ _ _ _
theorem mvtc (s : Reg) (cr : CrNum) : Statement (.mvtc s cr) := joinHalf_msb _ _ _ _
theorem seth (d : Reg) (imm : BitVec 16) : Statement (.seth d imm) := joinWord_msb _ _ _ _ _
theorem cmp (a : Reg) (b : Reg) : Statement (.cmp a b) := joinHalf_msb _ _ _ _
theorem cmpi (s : Reg) (imm : BitVec 16) : Statement (.cmpi s imm) := joinWord_msb _ _ _ _ _
theorem cmpu (a : Reg) (b : Reg) : Statement (.cmpu a b) := joinHalf_msb _ _ _ _
theorem cmpui (s : Reg) (imm : BitVec 16) : Statement (.cmpui s imm) := joinWord_msb _ _ _ _ _
theorem add (d : Reg) (s : Reg) : Statement (.add d s) := joinHalf_msb _ _ _ _
theorem add3 (d : Reg) (s : Reg) (imm : BitVec 16) : Statement (.add3 d s imm) := joinWord_msb _ _ _ _ _
theorem addi (d : Reg) (imm : BitVec 8) : Statement (.addi d imm) := joinHalf_msb _ _ _ _
theorem addv (d : Reg) (s : Reg) : Statement (.addv d s) := joinHalf_msb _ _ _ _
theorem addv3 (d : Reg) (s : Reg) (imm : BitVec 16) : Statement (.addv3 d s imm) := joinWord_msb _ _ _ _ _
theorem addx (d : Reg) (s : Reg) : Statement (.addx d s) := joinHalf_msb _ _ _ _
theorem neg (d : Reg) (s : Reg) : Statement (.neg d s) := joinHalf_msb _ _ _ _
theorem sub (d : Reg) (s : Reg) : Statement (.sub d s) := joinHalf_msb _ _ _ _
theorem subv (d : Reg) (s : Reg) : Statement (.subv d s) := joinHalf_msb _ _ _ _
theorem subx (d : Reg) (s : Reg) : Statement (.subx d s) := joinHalf_msb _ _ _ _
theorem and (d : Reg) (s : Reg) : Statement (.and d s) := joinHalf_msb _ _ _ _
theorem and3 (d : Reg) (s : Reg) (imm : BitVec 16) : Statement (.and3 d s imm) := joinWord_msb _ _ _ _ _
theorem not (d : Reg) (s : Reg) : Statement (.not d s) := joinHalf_msb _ _ _ _
theorem or (d : Reg) (s : Reg) : Statement (.or d s) := joinHalf_msb _ _ _ _
theorem or3 (d : Reg) (s : Reg) (imm : BitVec 16) : Statement (.or3 d s imm) := joinWord_msb _ _ _ _ _
theorem xor (d : Reg) (s : Reg) : Statement (.xor d s) := joinHalf_msb _ _ _ _
theorem xor3 (d : Reg) (s : Reg) (imm : BitVec 16) : Statement (.xor3 d s imm) := joinWord_msb _ _ _ _ _
theorem div (d : Reg) (s : Reg) : Statement (.div d s) := joinWord_msb _ _ _ _ _
theorem divu (d : Reg) (s : Reg) : Statement (.divu d s) := joinWord_msb _ _ _ _ _
theorem mul (d : Reg) (s : Reg) : Statement (.mul d s) := joinHalf_msb _ _ _ _
theorem rem (d : Reg) (s : Reg) : Statement (.rem d s) := joinWord_msb _ _ _ _ _
theorem remu (d : Reg) (s : Reg) : Statement (.remu d s) := joinWord_msb _ _ _ _ _
theorem sll (d : Reg) (s : Reg) : Statement (.sll d s) := joinHalf_msb _ _ _ _
theorem sll3 (d : Reg) (s : Reg) (imm : BitVec 16) : Statement (.sll3 d s imm) := joinWord_msb _ _ _ _ _
theorem slli (d : Reg) (imm : BitVec 5) : Statement (.slli d imm) := joinHalf_msb _ _ _ _
theorem sra (d : Reg) (s : Reg) : Statement (.sra d s) := joinHalf_msb _ _ _ _
theorem sra3 (d : Reg) (s : Reg) (imm : BitVec 16) : Statement (.sra3 d s imm) := joinWord_msb _ _ _ _ _
theorem srai (d : Reg) (imm : BitVec 5) : Statement (.srai d imm) := joinHalf_msb _ _ _ _
theorem srl (d : Reg) (s : Reg) : Statement (.srl d s) := joinHalf_msb _ _ _ _
theorem srl3 (d : Reg) (s : Reg) (imm : BitVec 16) : Statement (.srl3 d s imm) := joinWord_msb _ _ _ _ _
theorem srli (d : Reg) (imm : BitVec 5) : Statement (.srli d imm) := joinHalf_msb _ _ _ _
theorem bc8 (disp : BitVec 8) : Statement (.bc8 disp) := joinHalf_msb _ _ _ _
theorem bc24 (disp : BitVec 24) : Statement (.bc24 disp) := joinWord_msb _ _ _ _ _
theorem bl8 (disp : BitVec 8) : Statement (.bl8 disp) := joinHalf_msb _ _ _ _
theorem bl24 (disp : BitVec 24) : Statement (.bl24 disp) := joinWord_msb _ _ _ _ _
theorem bnc8 (disp : BitVec 8) : Statement (.bnc8 disp) := joinHalf_msb _ _ _ _
theorem bnc24 (disp : BitVec 24) : Statement (.bnc24 disp) := joinWord_msb _ _ _ _ _
theorem bra8 (disp : BitVec 8) : Statement (.bra8 disp) := joinHalf_msb _ _ _ _
theorem bra24 (disp : BitVec 24) : Statement (.bra24 disp) := joinWord_msb _ _ _ _ _
theorem beq (a : Reg) (b : Reg) (disp : BitVec 16) : Statement (.beq a b disp) := joinWord_msb _ _ _ _ _
theorem bne (a : Reg) (b : Reg) (disp : BitVec 16) : Statement (.bne a b disp) := joinWord_msb _ _ _ _ _
theorem beqz (s : Reg) (disp : BitVec 16) : Statement (.beqz s disp) := joinWord_msb _ _ _ _ _
theorem bnez (s : Reg) (disp : BitVec 16) : Statement (.bnez s disp) := joinWord_msb _ _ _ _ _
theorem jl (s : Reg) : Statement (.jl s) := joinHalf_msb _ _ _ _
theorem jmp (s : Reg) : Statement (.jmp s) := joinHalf_msb _ _ _ _
theorem bltz (s : Reg) (disp : BitVec 16) : Statement (.bltz s disp) := joinWord_msb _ _ _ _ _
theorem bgez (s : Reg) (disp : BitVec 16) : Statement (.bgez s disp) := joinWord_msb _ _ _ _ _
theorem blez (s : Reg) (disp : BitVec 16) : Statement (.blez s disp) := joinWord_msb _ _ _ _ _
theorem bgtz (s : Reg) (disp : BitVec 16) : Statement (.bgtz s disp) := joinWord_msb _ _ _ _ _
theorem nop : Statement (.nop) := joinHalf_msb _ _ _ _
theorem trap (n : Fin 16) : Statement (.trap n) := joinHalf_msb _ _ _ _
theorem rte : Statement (.rte) := joinHalf_msb _ _ _ _
theorem mulhi (a : Reg) (b : Reg) : Statement (.mulhi a b) := joinHalf_msb _ _ _ _
theorem mullo (a : Reg) (b : Reg) : Statement (.mullo a b) := joinHalf_msb _ _ _ _
theorem mulwhi (a : Reg) (b : Reg) : Statement (.mulwhi a b) := joinHalf_msb _ _ _ _
theorem mulwlo (a : Reg) (b : Reg) : Statement (.mulwlo a b) := joinHalf_msb _ _ _ _
theorem machi (a : Reg) (b : Reg) : Statement (.machi a b) := joinHalf_msb _ _ _ _
theorem maclo (a : Reg) (b : Reg) : Statement (.maclo a b) := joinHalf_msb _ _ _ _
theorem macwhi (a : Reg) (b : Reg) : Statement (.macwhi a b) := joinHalf_msb _ _ _ _
theorem macwlo (a : Reg) (b : Reg) : Statement (.macwlo a b) := joinHalf_msb _ _ _ _
theorem mvfachi (d : Reg) : Statement (.mvfachi d) := joinHalf_msb _ _ _ _
theorem mvfaclo (d : Reg) : Statement (.mvfaclo d) := joinHalf_msb _ _ _ _
theorem mvfacmi (d : Reg) : Statement (.mvfacmi d) := joinHalf_msb _ _ _ _
theorem mvtachi (s : Reg) : Statement (.mvtachi s) := joinHalf_msb _ _ _ _
theorem mvtaclo (s : Reg) : Statement (.mvtaclo s) := joinHalf_msb _ _ _ _
theorem rac : Statement (.rac) := joinHalf_msb _ _ _ _
theorem rach : Statement (.rach) := joinHalf_msb _ _ _ _
theorem fadd (d : Reg) (a : Reg) (b : Reg) : Statement (.fadd d a b) := joinWord_msb _ _ _ _ _
theorem fsub (d : Reg) (a : Reg) (b : Reg) : Statement (.fsub d a b) := joinWord_msb _ _ _ _ _
theorem fmul (d : Reg) (a : Reg) (b : Reg) : Statement (.fmul d a b) := joinWord_msb _ _ _ _ _
theorem fdiv (d : Reg) (a : Reg) (b : Reg) : Statement (.fdiv d a b) := joinWord_msb _ _ _ _ _
theorem fmadd (d : Reg) (a : Reg) (b : Reg) : Statement (.fmadd d a b) := joinWord_msb _ _ _ _ _
theorem fmsub (d : Reg) (a : Reg) (b : Reg) : Statement (.fmsub d a b) := joinWord_msb _ _ _ _ _
theorem itof (d : Reg) (s : Reg) : Statement (.itof d s) := joinWord_msb _ _ _ _ _
theorem utof (d : Reg) (s : Reg) : Statement (.utof d s) := joinWord_msb _ _ _ _ _
theorem ftoi (d : Reg) (s : Reg) : Statement (.ftoi d s) := joinWord_msb _ _ _ _ _
theorem ftos (d : Reg) (s : Reg) : Statement (.ftos d s) := joinWord_msb _ _ _ _ _
theorem fcmp (d : Reg) (a : Reg) (b : Reg) : Statement (.fcmp d a b) := joinWord_msb _ _ _ _ _
theorem fcmpe (d : Reg) (a : Reg) (b : Reg) : Statement (.fcmpe d a b) := joinWord_msb _ _ _ _ _
theorem bset (t : BitVec 3) (disp : BitVec 16) (s : Reg) : Statement (.bset t disp s) := joinWord_msb _ _ _ _ _
theorem bclr (t : BitVec 3) (disp : BitVec 16) (s : Reg) : Statement (.bclr t disp s) := joinWord_msb _ _ _ _ _
theorem btst (t : BitVec 3) (s : Reg) : Statement (.btst t s) := joinHalf_msb _ _ _ _
theorem setpsw (imm : BitVec 8) : Statement (.setpsw imm) := joinHalf_msb _ _ _ _
theorem clrpsw (imm : BitVec 8) : Statement (.clrpsw imm) := joinHalf_msb _ _ _ _

end Sys2Proof.Laws.WordShape
end

