-- ==== Sys2Proof/Tests/Slice0.lean ====
section
/-! SUPPORT. Tests of the model: ill-formed instructions, one decoded word per constructor, single steps
whose expected values are the spec's own vectors (`…_v<n>` is V<n> of spec/96_test_vectors_integer.md or
spec/97_test_vectors_fp.md) or are computed by hand from the rule named, and for each statement with
premises a state that meets them. -/

open Sys2Proof Sys2Proof.Machine

/-! ## Helpers -/

namespace Sys2Proof.Tests

/-- Memory with these bytes at an address and nothing else listed. -/
def bytesAt (a : Word) (bytes : List Byte) : Memory := (⟨[]⟩ : Memory).writeBytes a bytes

/-- FPSR with the stored bits of a word. -/
def fpsrOf (w : Word) : Fpsr :=
  { fx := w.getLsbD 30, fu := w.getLsbD 29, fz := w.getLsbD 28, fo := w.getLsbD 27, fv := w.getLsbD 26
    ex := w.getLsbD 14, eu := w.getLsbD 13, ez := w.getLsbD 12, eo := w.getLsbD 11, ev := w.getLsbD 10
    dn := w.getLsbD 8
    ce := w.getLsbD 7, cx := w.getLsbD 6, cu := w.getLsbD 5, cz := w.getLsbD 4, co := w.getLsbD 3
    cv := w.getLsbD 2
    rm := rmOfBits (w.extractLsb' 0 2) }

/-- The reset state at a pc with some registers and other state set; FPSR is H'0000 0100 unless given. -/
def start (pc : Word) (regs : List (Reg × Word)) (mem : Memory := ⟨[]⟩) (psw : Word := 0)
    (fpsr : Word := 0x100) (spi spu bpc : Word := 0) (acc : BitVec 56 := 0) (lock : Bool := false) : State :=
  regs.foldl (fun s p => s.writeReg p.1 p.2)
    { State.reset with
      pc := pc, mem := mem, psw := pswOfWord psw, fpsr := fpsrOf fpsr, spi := spi, spu := spu, bpc := bpc
      acc := acc, lock := lock }

/-- An outcome is a next state that passes a check. -/
def passes (r : Result) (check : State → Bool) : Bool :=
  match r with
  | .next t => check t
  | _ => false

/-- The instruction answers a next state that passes a check. -/
def after (i : Instr) (s : State) (check : State → Bool) : Bool := passes (exec i s) check

/-! ## Well-formedness: an MVFC or MVTC number that names no control register (R57) -/

theorem test_mvfc_ill_formed :
    ∀ cr ∈ ([4, 5, 8, 9, 10, 11, 12, 13, 14, 15] : List CrNum), (Instr.mvfc 1 cr).wellFormed = false := by
  decide

theorem test_mvtc_ill_formed :
    ∀ cr ∈ ([4, 5, 8, 9, 10, 11, 12, 13, 14, 15] : List CrNum), (Instr.mvtc 1 cr).wellFormed = false := by
  decide

theorem test_well_formed_crs :
    ∀ cr ∈ ([0, 1, 2, 3, 6, 7] : List CrNum),
      (Instr.mvfc 1 cr).wellFormed = true ∧ (Instr.mvtc 1 cr).wellFormed = true := by decide

theorem test_mvfc_cr4_refused_v43 : exec (.mvfc 1 4) State.reset = .refused .unassignedControlRegister := rfl

/-! ## Decoding: a word of every constructor, filled in by hand from its pattern in R154 -/

theorem test_decode_load :
    decodeTableWord 16 0x21C2 = some (.ldInd 1 2) ∧
    decodeTableWord 16 0x21E2 = some (.ldPostInc 1 2) ∧
    decodeTableWord 32 0xA1C2FE2D = some (.ldDisp 1 0xFE2D 2) ∧
    decodeTableWord 16 0x2182 = some (.ldbInd 1 2) ∧
    decodeTableWord 32 0xA182FE2D = some (.ldbDisp 1 0xFE2D 2) ∧
    decodeTableWord 16 0x2192 = some (.ldubInd 1 2) ∧
    decodeTableWord 32 0xA192FE2D = some (.ldubDisp 1 0xFE2D 2) ∧
    decodeTableWord 16 0x21A2 = some (.ldhInd 1 2) ∧
    decodeTableWord 32 0xA1A2FE2D = some (.ldhDisp 1 0xFE2D 2) ∧
    decodeTableWord 16 0x21B2 = some (.lduhInd 1 2) ∧
    decodeTableWord 32 0xA1B2FE2D = some (.lduhDisp 1 0xFE2D 2) ∧
    decodeTableWord 16 0x21D2 = some (.lock 1 2) := by
  decide

theorem test_decode_store :
    decodeTableWord 16 0x2142 = some (.stInd 1 2) ∧
    decodeTableWord 16 0x2162 = some (.stPreInc 1 2) ∧
    decodeTableWord 16 0x2172 = some (.stPreDec 1 2) ∧
    decodeTableWord 32 0xA142FE2D = some (.stDisp 1 0xFE2D 2) ∧
    decodeTableWord 16 0x2102 = some (.stbInd 1 2) ∧
    decodeTableWord 32 0xA102FE2D = some (.stbDisp 1 0xFE2D 2) ∧
    decodeTableWord 16 0x2122 = some (.sthInd 1 2) ∧
    decodeTableWord 16 0x2132 = some (.sthPostInc 1 2) ∧
    decodeTableWord 32 0xA122FE2D = some (.sthDisp 1 0xFE2D 2) ∧
    decodeTableWord 16 0x2152 = some (.unlock 1 2) := by
  decide

theorem test_decode_transfer :
    decodeTableWord 32 0xE1FE1D2C = some (.ld24 1 0xFE1D2C) ∧
    decodeTableWord 16 0x619C = some (.ldi8 1 0x9C) ∧
    decodeTableWord 32 0x91F0FE2D = some (.ldi16 1 0xFE2D) ∧
    decodeTableWord 16 0x1182 = some (.mv 1 2) ∧
    decodeTableWord 16 0x1196 = some (.mvfc 1 6) ∧
    decodeTableWord 16 0x16A1 = some (.mvtc 1 6) ∧
    decodeTableWord 32 0xD1C0FE2D = some (.seth 1 0xFE2D) := by
  decide

theorem test_decode_compare_arith :
    decodeTableWord 16 0x0142 = some (.cmp 1 2) ∧
    decodeTableWord 32 0x8041FE2D = some (.cmpi 1 0xFE2D) ∧
    decodeTableWord 16 0x0152 = some (.cmpu 1 2) ∧
    decodeTableWord 32 0x8051FE2D = some (.cmpui 1 0xFE2D) ∧
    decodeTableWord 16 0x01A2 = some (.add 1 2) ∧
    decodeTableWord 32 0x81A2FE2D = some (.add3 1 2 0xFE2D) ∧
    decodeTableWord 16 0x419C = some (.addi 1 0x9C) ∧
    decodeTableWord 16 0x0182 = some (.addv 1 2) ∧
    decodeTableWord 32 0x8182FE2D = some (.addv3 1 2 0xFE2D) ∧
    decodeTableWord 16 0x0192 = some (.addx 1 2) ∧
    decodeTableWord 16 0x0132 = some (.neg 1 2) ∧
    decodeTableWord 16 0x0122 = some (.sub 1 2) ∧
    decodeTableWord 16 0x0102 = some (.subv 1 2) ∧
    decodeTableWord 16 0x0112 = some (.subx 1 2) := by
  decide

theorem test_decode_logic :
    decodeTableWord 16 0x01C2 = some (.and 1 2) ∧
    decodeTableWord 32 0x81C2FE2D = some (.and3 1 2 0xFE2D) ∧
    decodeTableWord 16 0x01B2 = some (.not 1 2) ∧
    decodeTableWord 16 0x01E2 = some (.or 1 2) ∧
    decodeTableWord 32 0x81E2FE2D = some (.or3 1 2 0xFE2D) ∧
    decodeTableWord 16 0x01D2 = some (.xor 1 2) ∧
    decodeTableWord 32 0x81D2FE2D = some (.xor3 1 2 0xFE2D) := by
  decide

theorem test_decode_muldiv :
    decodeTableWord 32 0x91020000 = some (.div 1 2) ∧
    decodeTableWord 32 0x91120000 = some (.divu 1 2) ∧
    decodeTableWord 16 0x1162 = some (.mul 1 2) ∧
    decodeTableWord 32 0x91220000 = some (.rem 1 2) ∧
    decodeTableWord 32 0x91320000 = some (.remu 1 2) := by
  decide

theorem test_decode_shift :
    decodeTableWord 16 0x1142 = some (.sll 1 2) ∧
    decodeTableWord 32 0x91C2FE2D = some (.sll3 1 2 0xFE2D) ∧
    decodeTableWord 16 0x5155 = some (.slli 1 0x15) ∧
    decodeTableWord 16 0x1122 = some (.sra 1 2) ∧
    decodeTableWord 32 0x91A2FE2D = some (.sra3 1 2 0xFE2D) ∧
    decodeTableWord 16 0x5135 = some (.srai 1 0x15) ∧
    decodeTableWord 16 0x1102 = some (.srl 1 2) ∧
    decodeTableWord 32 0x9182FE2D = some (.srl3 1 2 0xFE2D) ∧
    decodeTableWord 16 0x5115 = some (.srli 1 0x15) := by
  decide

theorem test_decode_branch_c :
    decodeTableWord 16 0x7C9C = some (.bc8 0x9C) ∧
    decodeTableWord 32 0xFCFE1D2C = some (.bc24 0xFE1D2C) ∧
    decodeTableWord 16 0x7E9C = some (.bl8 0x9C) ∧
    decodeTableWord 32 0xFEFE1D2C = some (.bl24 0xFE1D2C) ∧
    decodeTableWord 16 0x7D9C = some (.bnc8 0x9C) ∧
    decodeTableWord 32 0xFDFE1D2C = some (.bnc24 0xFE1D2C) ∧
    decodeTableWord 16 0x7F9C = some (.bra8 0x9C) ∧
    decodeTableWord 32 0xFFFE1D2C = some (.bra24 0xFE1D2C) := by
  decide

theorem test_decode_branch_reg :
    decodeTableWord 32 0xB102FE2D = some (.beq 1 2 0xFE2D) ∧
    decodeTableWord 32 0xB112FE2D = some (.bne 1 2 0xFE2D) ∧
    decodeTableWord 32 0xB081FE2D = some (.beqz 1 0xFE2D) ∧
    decodeTableWord 32 0xB091FE2D = some (.bnez 1 0xFE2D) ∧
    decodeTableWord 16 0x1EC1 = some (.jl 1) ∧
    decodeTableWord 16 0x1FC1 = some (.jmp 1) ∧
    decodeTableWord 32 0xB0A1FE2D = some (.bltz 1 0xFE2D) ∧
    decodeTableWord 32 0xB0B1FE2D = some (.bgez 1 0xFE2D) ∧
    decodeTableWord 32 0xB0C1FE2D = some (.blez 1 0xFE2D) ∧
    decodeTableWord 32 0xB0D1FE2D = some (.bgtz 1 0xFE2D) ∧
    decodeTableWord 16 0x7000 = some .nop := by
  decide

theorem test_decode_eit :
    decodeTableWord 16 0x10FB = some (.trap 11) ∧
    decodeTableWord 16 0x10D6 = some .rte := by
  decide

theorem test_decode_dsp :
    decodeTableWord 16 0x3102 = some (.mulhi 1 2) ∧
    decodeTableWord 16 0x3112 = some (.mullo 1 2) ∧
    decodeTableWord 16 0x3122 = some (.mulwhi 1 2) ∧
    decodeTableWord 16 0x3132 = some (.mulwlo 1 2) ∧
    decodeTableWord 16 0x3142 = some (.machi 1 2) ∧
    decodeTableWord 16 0x3152 = some (.maclo 1 2) ∧
    decodeTableWord 16 0x3162 = some (.macwhi 1 2) ∧
    decodeTableWord 16 0x3172 = some (.macwlo 1 2) ∧
    decodeTableWord 16 0x51F0 = some (.mvfachi 1) ∧
    decodeTableWord 16 0x51F1 = some (.mvfaclo 1) ∧
    decodeTableWord 16 0x51F2 = some (.mvfacmi 1) ∧
    decodeTableWord 16 0x5170 = some (.mvtachi 1) ∧
    decodeTableWord 16 0x5171 = some (.mvtaclo 1) ∧
    decodeTableWord 16 0x5090 = some .rac ∧
    decodeTableWord 16 0x5080 = some .rach := by
  decide

theorem test_decode_float :
    decodeTableWord 32 0xD20D0100 = some (.fadd 1 2 13) ∧
    decodeTableWord 32 0xD20D0140 = some (.fsub 1 2 13) ∧
    decodeTableWord 32 0xD20D1100 = some (.fmul 1 2 13) ∧
    decodeTableWord 32 0xD20D2100 = some (.fdiv 1 2 13) ∧
    decodeTableWord 32 0xD20D3100 = some (.fmadd 1 2 13) ∧
    decodeTableWord 32 0xD20D3140 = some (.fmsub 1 2 13) ∧
    decodeTableWord 32 0xD2004100 = some (.itof 1 2) ∧
    decodeTableWord 32 0xD2004140 = some (.utof 1 2) ∧
    decodeTableWord 32 0xD2004180 = some (.ftoi 1 2) ∧
    decodeTableWord 32 0xD20041C0 = some (.ftos 1 2) ∧
    decodeTableWord 32 0xD20D01C0 = some (.fcmp 1 2 13) ∧
    decodeTableWord 32 0xD20D01D0 = some (.fcmpe 1 2 13) := by
  decide

theorem test_decode_bits :
    decodeTableWord 32 0xA661FE2D = some (.bset 0x6 0xFE2D 1) ∧
    decodeTableWord 32 0xA671FE2D = some (.bclr 0x6 0xFE2D 1) ∧
    decodeTableWord 16 0x06F1 = some (.btst 0x6 1) ∧
    decodeTableWord 16 0x719C = some (.setpsw 0x9C) ∧
    decodeTableWord 16 0x729C = some (.clrpsw 0x9C) := by
  decide

theorem test_decode_sign_and_slot :
    decodeLowSlot 0xF000 = .ok .nop ∧ decodeLowSlot 0x70F0 = .error .undefinedInstruction ∧
    decodeLowSlot 0x9081 = .error .parallelSlot ∧ decodeTableWord 16 0x2101 = some (.stbInd 1 1) := by decide

/-! ## Single steps: the spec's vectors -/

theorem test_ldInd_v1 :
    after (.ldInd 1 2) (start 0x1000 [(2, 0x2000)] (mem := bytesAt 0x2000 [0x11, 0x22, 0x33, 0x44]))
      (fun t => t.readReg 1 = 0x11223344 ∧ t.pc = 0x1002) = true := by decide
theorem test_ldInd_v9 :
    after (.ldInd 1 2) (start 0x1000 [(1, 0xAAAAAAAA), (2, 0x2002)] (psw := 0xC1) (mem := bytesAt
        0x2000 [0x11, 0x22, 0x33, 0x44]))
      (fun t => pswWord t.psw = 0xC180 ∧ t.bpc = 0x1000 ∧ t.pc = 0x30) = true := by decide
theorem test_ldPostInc_v10 :
    after (.ldPostInc 1 2) (start 0x1000 [(1, 0xAAAAAAAA), (2, 0x2001)] (mem := bytesAt 0x2000
        [0x11, 0x22, 0x33, 0x44]))
      (fun t => t.bpc = 0x1000 ∧ t.pc = 0x30) = true := by decide
theorem test_ldDisp_v12 :
    after (.ldDisp 1 0x8 2) (start 0x1000 [(2, 0xFFFFFFFC)] (mem := bytesAt 0x4 [0xCA, 0xFE, 0xBA,
        0xBE]))
      (fun t => t.readReg 1 = 0xCAFEBABE ∧ t.pc = 0x1004) = true := by decide
theorem test_ldbInd_v7 :
    after (.ldbInd 1 2) (start 0x1000 [(2, 0x2001)] (mem := bytesAt 0x2000 [0x00, 0xFF, 0x00,
        0x00]))
      (fun t => t.readReg 1 = 0xFFFFFFFF ∧ t.pc = 0x1002) = true := by decide
theorem test_ldubInd_v3 :
    after (.ldubInd 1 2) (start 0x1000 [(2, 0x2001)] (mem := bytesAt 0x2000 [0x11, 0x22, 0x33,
        0x44]))
      (fun t => t.readReg 1 = 0x22 ∧ t.pc = 0x1002) = true := by decide
theorem test_ldhDisp_v8 :
    after (.ldhDisp 1 0xFFFE 2) (start 0x1000 [(2, 0x2002)] (mem := bytesAt 0x2000 [0x80, 0x00,
        0x00, 0x00]))
      (fun t => t.readReg 1 = 0xFFFF8000 ∧ t.pc = 0x1004) = true := by decide
theorem test_lduhInd_v6 :
    after (.lduhInd 1 2) (start 0x1000 [(2, 0x2002)] (mem := bytesAt 0x2000 [0x11, 0x22, 0x33,
        0x44]))
      (fun t => t.readReg 1 = 0x3344 ∧ t.pc = 0x1002) = true := by decide
theorem test_lock_v21 : after (.lock 1 2) (start 0x1000 [(2, 0x2002)])
      (fun t => t.bpc = 0x1000 ∧ t.pc = 0x30) = true := by decide
theorem test_stPreDec_v15 : after (.stPreDec 1 2) (start 0x1000 [(1, 0x1020304), (2, 0x0)])
      (fun t => t.readReg 2 = 0xFFFFFFFC ∧ t.mem.readByte 0xFFFFFFFC = 0x01 ∧ t.mem.readByte
        0xFFFFFFFD = 0x02 ∧ t.mem.readByte 0xFFFFFFFE = 0x03 ∧ t.mem.readByte 0xFFFFFFFF = 0x04 ∧
        t.pc = 0x1002) = true := by decide
theorem test_stPreDec_v14 :
    after (.stPreDec 1 15) (start 0x1000 [(1, 0xDEADBEEF)] (spi := 0x3000) (spu := 0x4000) (psw :=
        0x80))
      (fun t => t.spu = 0x3FFC ∧ t.mem.readByte 0x3FFC = 0xDE ∧ t.mem.readByte 0x3FFD = 0xAD ∧
        t.mem.readByte 0x3FFE = 0xBE ∧ t.mem.readByte 0x3FFF = 0xEF ∧ t.pc = 0x1002) = true := by
        decide
theorem test_stbInd_v17 :
    after (.stbInd 1 2) (start 0x1000 [(1, 0xFFFFFF99), (2, 0x2003)] (mem := bytesAt 0x2000 [0x11,
        0x22, 0x33, 0x44]))
      (fun t => t.mem.readByte 0x2003 = 0x99 ∧ t.pc = 0x1002) = true := by decide
theorem test_sthPostInc_v18 : after (.sthPostInc 2 2) (start 0x1000 [(2, 0x12002)])
      (fun t => t.readReg 2 = 0x12004 ∧ t.mem.readByte 0x12002 = 0x20 ∧ t.mem.readByte 0x12003 =
        0x02 ∧ t.pc = 0x1002) = true := by decide
theorem test_unlock_v23 :
    after (.unlock 1 2) (start 0x1000 [(1, 0x7), (2, 0x2000)] (lock := true) (mem := bytesAt 0x2000
        [0x11, 0x22, 0x33, 0x44]))
      (fun t => t.lock = false ∧ t.mem.readByte 0x2000 = 0x00 ∧ t.mem.readByte 0x2001 = 0x00 ∧
        t.mem.readByte 0x2002 = 0x00 ∧ t.mem.readByte 0x2003 = 0x07 ∧ t.pc = 0x1002) = true := by
        decide
theorem test_unlock_v22 :
    after (.unlock 1 2) (start 0x1000 [(1, 0x7), (2, 0x2000)] (mem := bytesAt 0x2000 [0x11, 0x22,
        0x33, 0x44]))
      (fun t => t.readReg 1 = 0x7 ∧ t.pc = 0x1002) = true := by decide
theorem test_ld24_v30 : after (.ld24 0 0xFFFFFF) (start 0x1000 [(0, 0xAAAAAAAA)])
      (fun t => t.readReg 0 = 0xFFFFFF ∧ t.pc = 0x1004) = true := by decide
theorem test_ldi8_v31 : after (.ldi8 1 0x80) (start 0x1000 [])
      (fun t => t.readReg 1 = 0xFFFFFF80 ∧ t.pc = 0x1002) = true := by decide
theorem test_ldi16_v32 : after (.ldi16 1 0x7FFF) (start 0x1000 [])
      (fun t => t.readReg 1 = 0x7FFF ∧ t.pc = 0x1004) = true := by decide
theorem test_mv_v34 :
    after (.mv 1 15) (start 0x1000 [] (spi := 0x3000) (spu := 0x4000) (psw := 0x80))
      (fun t => t.readReg 1 = 0x4000 ∧ t.pc = 0x1002) = true := by decide
theorem test_mvfc_v35 :
    after (.mvfc 1 2) (start 0x1000 [] (spi := 0x3000) (spu := 0x4000) (psw := 0x80))
      (fun t => t.readReg 1 = 0x3000 ∧ t.pc = 0x1002) = true := by decide
theorem test_mvfc_v42 : after (.mvfc 1 7) (start 0x1000 [] (fpsr := 0x8000100))
      (fun t => t.readReg 1 = 0x88000100 ∧ t.pc = 0x1002) = true := by decide
theorem test_mvtc_v36 : after (.mvtc 1 0) (start 0x1000 [(1, 0xFFFFFFFF)])
      (fun t => pswWord t.psw = 0xC1C1 ∧ t.pc = 0x1002) = true := by decide
theorem test_mvtc_v40 : after (.mvtc 1 7) (start 0x1000 [(1, 0x188)] (fpsr := 0x1FC))
      (fun t => fpsrWord t.fpsr = 0x188 ∧ t.pc = 0x1002) = true := by decide
theorem test_seth_v33 : after (.seth 1 0xFFFF) (start 0x1000 [(1, 0x12345678)])
      (fun t => t.readReg 1 = 0xFFFF0000 ∧ t.pc = 0x1004) = true := by decide
theorem test_cmp_v50 : after (.cmp 1 2) (start 0x1000 [(1, 0x80000000), (2, 0x1)])
      (fun t => pswWord t.psw = 0x1 ∧ t.pc = 0x1002) = true := by decide
theorem test_cmp_v52 : after (.cmp 1 1) (start 0x1000 [(1, 0x5)] (psw := 0x1))
      (fun t => pswWord t.psw = 0x0 ∧ t.pc = 0x1002) = true := by decide
theorem test_cmpi_v53 : after (.cmpi 1 0x8000) (start 0x1000 [(1, 0xFFFF7FFF)])
      (fun t => pswWord t.psw = 0x1 ∧ t.pc = 0x1004) = true := by decide
theorem test_cmpu_v51 : after (.cmpu 1 2) (start 0x1000 [(1, 0x80000000), (2, 0x1)] (psw := 0x1))
      (fun t => pswWord t.psw = 0x0 ∧ t.pc = 0x1002) = true := by decide
theorem test_cmpui_v54 : after (.cmpui 1 0xFFFF) (start 0x1000 [(1, 0xFFFFFFFF)] (psw := 0x1))
      (fun t => pswWord t.psw = 0x0 ∧ t.pc = 0x1004) = true := by decide
theorem test_add3_v66 : after (.add3 1 1 0x8000) (start 0x1000 [(1, 0x8000)])
      (fun t => t.readReg 1 = 0x0 ∧ t.pc = 0x1004) = true := by decide
theorem test_addi_v65 : after (.addi 1 0x80) (start 0x1000 [(1, 0x7F)])
      (fun t => t.readReg 1 = 0xFFFFFFFF ∧ t.pc = 0x1002) = true := by decide
theorem test_addv_v55 : after (.addv 1 2) (start 0x1000 [(1, 0x80000000), (2, 0xFFFFFFFF)])
      (fun t => t.readReg 1 = 0x7FFFFFFF ∧ pswWord t.psw = 0x1 ∧ t.pc = 0x1002) = true := by decide
theorem test_addv_v56 : after (.addv 1 2) (start 0x1000 [(1, 0xFFFFFFFF), (2, 0x1)] (psw := 0x1))
      (fun t => t.readReg 1 = 0x0 ∧ pswWord t.psw = 0x0 ∧ t.pc = 0x1002) = true := by decide
theorem test_addv3_v57 : after (.addv3 1 2 0x7FFF) (start 0x1000 [(2, 0x7FFF8001)])
      (fun t => t.readReg 1 = 0x80000000 ∧ pswWord t.psw = 0x1 ∧ t.pc = 0x1004) = true := by decide
theorem test_addx_v58 : after (.addx 1 2) (start 0x1000 [(1, 0xFFFFFFFF), (2, 0x0)] (psw := 0x1))
      (fun t => t.readReg 1 = 0x0 ∧ t.pc = 0x1002) = true := by decide
theorem test_addx_v59 : after (.addx 1 2) (start 0x1000 [(1, 0x7FFFFFFF), (2, 0x1)] (psw := 0x1))
      (fun t => t.readReg 1 = 0x80000001 ∧ pswWord t.psw = 0x0 ∧ t.pc = 0x1002) = true := by decide
theorem test_neg_v64 : after (.neg 1 2) (start 0x1000 [(2, 0x80000000)])
      (fun t => t.readReg 1 = 0x80000000 ∧ t.pc = 0x1002) = true := by decide
theorem test_subv_v60 : after (.subv 1 2) (start 0x1000 [(1, 0x7FFFFFFF), (2, 0xFFFFFFFF)])
      (fun t => t.readReg 1 = 0x80000000 ∧ pswWord t.psw = 0x1 ∧ t.pc = 0x1002) = true := by decide
theorem test_subv_v61 : after (.subv 0 0) (start 0x1000 [(0, 0x12345678)] (psw := 0x1))
      (fun t => t.readReg 0 = 0x0 ∧ pswWord t.psw = 0x0 ∧ t.pc = 0x1002) = true := by decide
theorem test_subx_v62 : after (.subx 1 2) (start 0x1000 [(1, 0x5), (2, 0x5)] (psw := 0x1))
      (fun t => t.readReg 1 = 0xFFFFFFFF ∧ t.pc = 0x1002) = true := by decide
theorem test_subx_v63 : after (.subx 1 2) (start 0x1000 [(1, 0x80000000), (2, 0x1)])
      (fun t => t.readReg 1 = 0x7FFFFFFF ∧ t.pc = 0x1002) = true := by decide
theorem test_and3_v67 : after (.and3 1 2 0x8000) (start 0x1000 [(2, 0xFFFFFFFF)])
      (fun t => t.readReg 1 = 0x8000 ∧ t.pc = 0x1004) = true := by decide
theorem test_not_v70 : after (.not 1 1) (start 0x1000 [(1, 0x0)])
      (fun t => t.readReg 1 = 0xFFFFFFFF ∧ t.pc = 0x1002) = true := by decide
theorem test_or3_v68 : after (.or3 1 2 0x8000) (start 0x1000 [(2, 0x0)])
      (fun t => t.readReg 1 = 0x8000 ∧ t.pc = 0x1004) = true := by decide
theorem test_xor_v71 : after (.xor 3 3) (start 0x1000 [(3, 0xFFFFFFFF)] (psw := 0x1))
      (fun t => t.readReg 3 = 0x0 ∧ t.pc = 0x1002) = true := by decide
theorem test_xor3_v69 : after (.xor3 1 2 0xFFFF) (start 0x1000 [(2, 0xFFFFFFFF)])
      (fun t => t.readReg 1 = 0xFFFF0000 ∧ t.pc = 0x1004) = true := by decide
theorem test_div_v80 : after (.div 1 2) (start 0x1000 [(1, 0x7), (2, 0xFFFFFFFE)])
      (fun t => t.readReg 1 = 0xFFFFFFFD ∧ t.pc = 0x1004) = true := by decide
theorem test_div_v83 : after (.div 1 2) (start 0x1000 [(1, 0x80000000), (2, 0x1)])
      (fun t => t.readReg 1 = 0x80000000 ∧ t.pc = 0x1004) = true := by decide
theorem test_divu_v84 : after (.divu 1 2) (start 0x1000 [(1, 0x80000000), (2, 0xFFFFFFFF)])
      (fun t => t.readReg 1 = 0x0 ∧ t.pc = 0x1004) = true := by decide
theorem test_mul_v90 : after (.mul 1 2) (start 0x1000 [(1, 0xFFFFFFFF), (2, 0xFFFFFFFF)])
      (fun t => t.readReg 1 = 0x1 ∧ t.pc = 0x1002) = true := by decide
theorem test_rem_v85 : after (.rem 1 2) (start 0x1000 [(1, 0xFFFFFFF9), (2, 0xFFFFFFFE)])
      (fun t => t.readReg 1 = 0xFFFFFFFF ∧ t.pc = 0x1004) = true := by decide
theorem test_remu_v88 : after (.remu 1 2) (start 0x1000 [(1, 0xFFFFFFFF), (2, 0x10)])
      (fun t => t.readReg 1 = 0xF ∧ t.pc = 0x1004) = true := by decide
theorem test_remu_v87 : after (.remu 1 2) (start 0x1000 [(1, 0xFFFFFFFF), (2, 0x0)])
      (fun t => t.readReg 1 = 0xFFFFFFFF ∧ t.pc = 0x1004) = true := by decide
theorem test_sll_v91 : after (.sll 1 2) (start 0x1000 [(1, 0x12345678), (2, 0x20)])
      (fun t => t.readReg 1 = 0x12345678 ∧ t.pc = 0x1002) = true := by decide
theorem test_sll_v92 : after (.sll 1 1) (start 0x1000 [(1, 0x3)])
      (fun t => t.readReg 1 = 0x18 ∧ t.pc = 0x1002) = true := by decide
theorem test_sll3_v93 : after (.sll3 1 2 0xFFE1) (start 0x1000 [(2, 0xC0000001)])
      (fun t => t.readReg 1 = 0x80000002 ∧ t.pc = 0x1004) = true := by decide
theorem test_slli_v94 : after (.slli 1 0x1F) (start 0x1000 [(1, 0x3)])
      (fun t => t.readReg 1 = 0x80000000 ∧ t.pc = 0x1002) = true := by decide
theorem test_sra_v95 : after (.sra 1 2) (start 0x1000 [(1, 0xFFFFFFFF), (2, 0x1F)])
      (fun t => t.readReg 1 = 0xFFFFFFFF ∧ t.pc = 0x1002) = true := by decide
theorem test_sra3_v96 : after (.sra3 1 2 0x20) (start 0x1000 [(2, 0x80000000)])
      (fun t => t.readReg 1 = 0x80000000 ∧ t.pc = 0x1004) = true := by decide
theorem test_srai_v97 : after (.srai 1 0x1) (start 0x1000 [(1, 0xFFFFFFFD)])
      (fun t => t.readReg 1 = 0xFFFFFFFE ∧ t.pc = 0x1002) = true := by decide
theorem test_srl_v98 : after (.srl 1 2) (start 0x1000 [(1, 0x80000000), (2, 0xFFFFFFFF)])
      (fun t => t.readReg 1 = 0x1 ∧ t.pc = 0x1002) = true := by decide
theorem test_srl3_v99 : after (.srl3 1 2 0x8) (start 0x1000 [(2, 0xFF000000)])
      (fun t => t.readReg 1 = 0xFF0000 ∧ t.pc = 0x1004) = true := by decide
theorem test_srli_v100 : after (.srli 1 0x0) (start 0x1000 [(1, 0x80000001)])
      (fun t => t.readReg 1 = 0x80000001 ∧ t.pc = 0x1002) = true := by decide
theorem test_bc8_v116 : after (.bc8 0x4) (start 0x1000 []) (fun t => t.pc = 0x1002) = true := by decide
theorem test_bc24_v118 : after (.bc24 0x800000) (start 0x1000 [] (psw := 0x1))
      (fun t => t.pc = 0xFE001000) = true := by decide
theorem test_bl8_v113 : after (.bl8 0x4) (start 0x1002 [])
      (fun t => t.readReg 14 = 0x1004 ∧ t.pc = 0x1010) = true := by decide
theorem test_bl24_v120 : after (.bl24 0xFFFFFF) (start 0x1000 [])
      (fun t => t.readReg 14 = 0x1004 ∧ t.pc = 0xFFC) = true := by decide
theorem test_bnc8_v117 : after (.bnc8 0x4) (start 0x1002 [] (psw := 0x1))
      (fun t => t.pc = 0x1004) = true := by decide
theorem test_bra8_v111 : after (.bra8 0x4) (start 0x1002 []) (fun t => t.pc = 0x1010) = true := by decide
theorem test_bra8_v114 : after (.bra8 0x80) (start 0x1002 []) (fun t => t.pc = 0xE00) = true := by decide
theorem test_bra24_v119 : after (.bra24 0x7FFFFF) (start 0x1000 [])
      (fun t => t.pc = 0x2000FFC) = true := by decide
theorem test_beq_v121 : after (.beq 3 3 0x8000) (start 0x30000 [(3, 0x9)])
      (fun t => t.pc = 0x10000) = true := by decide
theorem test_bne_v122 : after (.bne 3 3 0x5) (start 0x1000 [(3, 0x9)])
      (fun t => t.pc = 0x1004) = true := by decide
theorem test_beqz_v127 : after (.beqz 1 0xFFFF) (start 0x1000 [(1, 0x0)])
      (fun t => t.readReg 1 = 0x0 ∧ t.pc = 0xFFC) = true := by decide
theorem test_bnez_v128 : after (.bnez 1 0x0) (start 0x1000 [(1, 0x1)])
      (fun t => t.readReg 1 = 0x1 ∧ t.pc = 0x1000) = true := by decide
theorem test_jl_v130 : after (.jl 1) (start 0x1000 [(1, 0x2002)])
      (fun t => t.readReg 14 = 0x1004 ∧ t.pc = 0x2000) = true := by decide
theorem test_jmp_v129 : after (.jmp 1) (start 0x1000 [(1, 0x2007)])
      (fun t => t.readReg 1 = 0x2007 ∧ t.pc = 0x2004) = true := by decide
theorem test_bltz_v123 : after (.bltz 1 0x2) (start 0x1000 [(1, 0x80000000)])
      (fun t => t.readReg 1 = 0x80000000 ∧ t.pc = 0x1008) = true := by decide
theorem test_bgez_v126 : after (.bgez 1 0x2) (start 0x1000 [(1, 0x80000000)])
      (fun t => t.readReg 1 = 0x80000000 ∧ t.pc = 0x1004) = true := by decide
theorem test_blez_v125 : after (.blez 1 0x2) (start 0x1000 [(1, 0x0)])
      (fun t => t.readReg 1 = 0x0 ∧ t.pc = 0x1008) = true := by decide
theorem test_bgtz_v124 : after (.bgtz 1 0x2) (start 0x1000 [(1, 0x0)])
      (fun t => t.readReg 1 = 0x0 ∧ t.pc = 0x1004) = true := by decide
theorem test_nop_v132 : after (.nop) (start 0x1000 []) (fun t => t.pc = 0x1002) = true := by decide
theorem test_trap_v140 : after (.trap 0) (start 0x1002 [] (psw := 0x41))
      (fun t => pswWord t.psw = 0x4100 ∧ t.bpc = 0x1006 ∧ t.pc = 0x40) = true := by decide
theorem test_trap_v141 : after (.trap 15) (start 0x1000 [] (psw := 0xC1C1))
      (fun t => pswWord t.psw = 0xC180 ∧ t.bpc = 0x1004 ∧ t.pc = 0x7C) = true := by decide
theorem test_rte_v142 : after (.rte) (start 0x40 [] (psw := 0x4100) (bpc := 0x1006))
      (fun t => t.psw.sm = false ∧ t.psw.ie = true ∧ t.psw.c = true ∧ t.pc = 0x1004) = true := by
        decide
theorem test_rte_v143 :
    after (.rte) (start 0x40 [] (spi := 0x3000) (spu := 0x4000) (psw := 0x8000) (bpc := 0x2000))
      (fun t => t.psw.sm = true ∧ t.psw.ie = false ∧ t.psw.c = false ∧ t.pc = 0x2000) = true := by
        decide
theorem test_mulhi_v150 :
    after (.mulhi 1 2) (start 0x1000 [(1, 0x8000FFFF), (2, 0x8000FFFF)] (acc := 0x55555555555555))
      (fun t => t.acc = 0x400000000000 ∧ t.pc = 0x1002) = true := by decide
theorem test_mullo_v151 : after (.mullo 1 2) (start 0x1000 [(1, 0xFFFF8000), (2, 0x7FFF)])
      (fun t => t.acc = 0xFFC00080000000 ∧ t.pc = 0x1002) = true := by decide
theorem test_mulwhi_v152 : after (.mulwhi 1 2) (start 0x1000 [(1, 0x80000000), (2, 0x80000000)])
      (fun t => t.acc = 0x400000000000 ∧ t.pc = 0x1002) = true := by decide
theorem test_mulwlo_v153 : after (.mulwlo 1 2) (start 0x1000 [(1, 0x7FFFFFFF), (2, 0xFFFF8000)])
      (fun t => t.acc = 0xFFC00000008000 ∧ t.pc = 0x1002) = true := by decide
theorem test_machi_v154 :
    after (.machi 1 2) (start 0x1000 [(1, 0x40000000), (2, 0x40000000)] (acc := 0x7FFFFF00001234))
      (fun t => t.acc = 0x800FFF00001234 ∧ t.pc = 0x1002) = true := by decide
theorem test_maclo_v155 :
    after (.maclo 1 2) (start 0x1000 [(1, 0xFFFF), (2, 0xFFFF)] (acc := 0xFFFFFFFFFF0000))
      (fun t => t.acc = 0x0 ∧ t.pc = 0x1002) = true := by decide
theorem test_macwhi_v156 :
    after (.macwhi 1 2) (start 0x1000 [(1, 0xFFFFFFFF), (2, 0x10000)] (acc := 0x0))
      (fun t => t.acc = 0xFFFFFFFFFFFFFF ∧ t.pc = 0x1002) = true := by decide
theorem test_macwlo_v157 :
    after (.macwlo 1 2) (start 0x1000 [(1, 0x80000000), (2, 0x1)] (acc := 0x80000000000000))
      (fun t => t.acc = 0x7FFFFF80000000 ∧ t.pc = 0x1002) = true := by decide
theorem test_mvfachi_v158 : after (.mvfachi 1) (start 0x1000 [] (acc := 0x800000FFFFFFFF))
      (fun t => t.readReg 1 = 0xFF800000 ∧ t.pc = 0x1002) = true := by decide
theorem test_mvfacmi_v159 : after (.mvfacmi 1) (start 0x1000 [] (acc := 0xFFFF8000000000))
      (fun t => t.readReg 1 = 0xFF800000 ∧ t.pc = 0x1002) = true := by decide
theorem test_mvtachi_v160 : after (.mvtachi 1) (start 0x1000 [(1, 0xAB7FFFFF)] (acc := 0xDDDDDDDD))
      (fun t => t.acc = 0x7FFFFFDDDDDDDD ∧ t.pc = 0x1002) = true := by decide
theorem test_mvtaclo_v161 :
    after (.mvtaclo 1) (start 0x1000 [(1, 0x80000000)] (acc := 0xFFFFFF00000000))
      (fun t => t.acc = 0xFFFFFF80000000 ∧ t.pc = 0x1002) = true := by decide
theorem test_rac_v162 : after (.rac) (start 0x1000 [] (acc := 0x3FFFFFFF4000))
      (fun t => t.acc = 0x7FFFFFFF0000 ∧ t.pc = 0x1002) = true := by decide
theorem test_rac_v164 : after (.rac) (start 0x1000 [] (acc := 0x3FFF))
      (fun t => t.acc = 0x0 ∧ t.pc = 0x1002) = true := by decide
theorem test_rach_v166 : after (.rach) (start 0x1000 [] (acc := 0x3FFF40000000))
      (fun t => t.acc = 0x7FFF00000000 ∧ t.pc = 0x1002) = true := by decide
theorem test_rach_v168 : after (.rach) (start 0x1000 [] (acc := 0x123440000000))
      (fun t => t.acc = 0x246900000000 ∧ t.pc = 0x1002) = true := by decide
set_option exponentiation.threshold 300 in
set_option maxRecDepth 2000 in
theorem test_fadd_v182 :
    after (.fadd 0 1 2) (start 0x1000 [(0, 0xAAAAAAAA), (1, 0x3F800000), (2, 0x33800000)] (fpsr :=
        0x102))
      (fun t => t.readReg 0 = 0x3F800001 ∧ fpsrWord t.fpsr = 0x40000142 ∧ t.pc = 0x1004) = true :=
        by decide
theorem test_fadd_v189 :
    after (.fadd 0 1 2) (start 0x1000 [(0, 0xAAAAAAAA), (1, 0x0), (2, 0x80000000)] (fpsr := 0x103))
      (fun t => t.readReg 0 = 0x80000000 ∧ t.pc = 0x1004) = true := by decide
theorem test_fsub_v194 :
    after (.fsub 0 1 2) (start 0x1000 [(0, 0xAAAAAAAA), (1, 0x7F800000), (2, 0xFF800000)] (fpsr :=
        0x100))
      (fun t => t.readReg 0 = 0x7F800000 ∧ t.pc = 0x1004) = true := by decide
theorem test_fsub_v198 :
    after (.fsub 0 1 2) (start 0x1000 [(0, 0xAAAAAAAA), (1, 0x7FC00001), (2, 0xFFC00002)] (fpsr :=
        0x100))
      (fun t => t.readReg 0 = 0xFFC00002 ∧ t.pc = 0x1004) = true := by decide
set_option exponentiation.threshold 300 in
set_option maxRecDepth 2000 in
theorem test_fmul_v207 :
    after (.fmul 0 1 2) (start 0x1000 [(0, 0xAAAAAAAA), (1, 0x7F7FFFFF), (2, 0x40000000)] (fpsr :=
        0x103))
      (fun t => t.readReg 0 = 0x7F7FFFFF ∧ fpsrWord t.fpsr = 0xC800014B ∧ t.pc = 0x1004) = true :=
        by decide
set_option exponentiation.threshold 300 in
set_option maxRecDepth 2000 in
theorem test_fmul_v214 :
    after (.fmul 0 1 2) (start 0x1000 [(0, 0xAAAAAAAA), (1, 0x800000), (2, 0x3F000000)] (fpsr :=
        0x2100))
      (fun t => t.bpc = 0x1004 ∧ fpsrWord t.fpsr = 0x2120 ∧ t.pc = 0x90) = true := by decide
set_option exponentiation.threshold 300 in
set_option maxRecDepth 2000 in
theorem test_fdiv_v227 :
    after (.fdiv 0 1 2) (start 0x1000 [(0, 0xAAAAAAAA), (1, 0xBF800000), (2, 0x40400000)] (fpsr :=
        0x100))
      (fun t => t.readReg 0 = 0xBEAAAAAB ∧ fpsrWord t.fpsr = 0x40000140 ∧ t.pc = 0x1004) = true :=
        by decide
theorem test_fdiv_v221 :
    after (.fdiv 0 1 2) (start 0x1000 [(0, 0xAAAAAAAA), (1, 0xBF800000), (2, 0x0)] (fpsr := 0x1100))
      (fun t => t.bpc = 0x1004 ∧ fpsrWord t.fpsr = 0x1110 ∧ t.pc = 0x90) = true := by decide
set_option exponentiation.threshold 300 in
set_option maxRecDepth 2000 in
theorem test_fmsub_v246 :
    after (.fmsub 0 1 2) (start 0x1000 [(0, 0x3F800000), (1, 0x7F7FFFFF), (2, 0x40000000)] (fpsr :=
        0x101))
      (fun t => t.readReg 0 = 0xFF7FFFFF ∧ fpsrWord t.fpsr = 0xC8000149 ∧ t.pc = 0x1004) = true :=
        by decide
set_option exponentiation.threshold 300 in
set_option maxRecDepth 2000 in
theorem test_fmsub_v260 :
    after (.fmsub 0 1 2) (start 0x1000 [(0, 0x40400000), (1, 0x3F800000), (2, 0x40400000)] (fpsr :=
        0x103))
      (fun t => t.readReg 0 = 0x80000000 ∧ t.pc = 0x1004) = true := by decide
set_option exponentiation.threshold 300 in
set_option maxRecDepth 2000 in
theorem test_fmadd_v247 :
    after (.fmadd 0 1 2) (start 0x1000 [(0, 0xFF800000), (1, 0x7F7FFFFF), (2, 0x40000000)] (fpsr :=
        0x100))
      (fun t => t.readReg 0 = 0x7FFFFFFF ∧ fpsrWord t.fpsr = 0xCC00014C ∧ t.pc = 0x1004) = true :=
        by decide
set_option exponentiation.threshold 300 in
set_option maxRecDepth 2000 in
theorem test_fmadd_v252 :
    after (.fmadd 0 1 2) (start 0x1000 [(0, 0x1), (1, 0x7F7FFFFF), (2, 0x40000000)] (fpsr := 0x800))
      (fun t => t.bpc = 0x1004 ∧ fpsrWord t.fpsr = 0x888 ∧ t.pc = 0x90) = true := by decide
theorem test_itof_v273 :
    after (.itof 1 2) (start 0x1000 [(1, 0xAAAAAAAA), (2, 0x1000001)] (fpsr := 0x102))
      (fun t => t.readReg 1 = 0x4B800001 ∧ fpsrWord t.fpsr = 0x40000142 ∧ t.pc = 0x1004) = true :=
        by decide
theorem test_utof_v275 :
    after (.utof 1 2) (start 0x1000 [(1, 0xAAAAAAAA), (2, 0xFFFFFFFF)] (fpsr := 0x100))
      (fun t => t.readReg 1 = 0x4F800000 ∧ fpsrWord t.fpsr = 0x40000140 ∧ t.pc = 0x1004) = true :=
        by decide
theorem test_ftoi_v281 :
    after (.ftoi 1 2) (start 0x1000 [(1, 0xAAAAAAAA), (2, 0x4F000000)] (fpsr := 0x100))
      (fun t => t.readReg 1 = 0x7FFFFFFF ∧ fpsrWord t.fpsr = 0x84000104 ∧ t.pc = 0x1004) = true :=
        by decide
theorem test_ftoi_v283 :
    after (.ftoi 1 2) (start 0x1000 [(1, 0xAAAAAAAA), (2, 0xCF000000)] (fpsr := 0x100))
      (fun t => t.readReg 1 = 0x80000000 ∧ t.pc = 0x1004) = true := by decide
theorem test_ftos_v297 :
    after (.ftos 1 2) (start 0x1000 [(1, 0xAAAAAAAA), (2, 0xC7000100)] (fpsr := 0x100))
      (fun t => t.readReg 1 = 0xFFFF8000 ∧ fpsrWord t.fpsr = 0x84000104 ∧ t.pc = 0x1004) = true :=
        by decide
theorem test_ftos_v298 :
    after (.ftos 1 2) (start 0x1000 [(1, 0xAAAAAAAA), (2, 0xBFC00000)] (fpsr := 0x100))
      (fun t => t.readReg 1 = 0xFFFFFFFF ∧ fpsrWord t.fpsr = 0x40000140 ∧ t.pc = 0x1004) = true :=
        by decide
theorem test_fcmp_v312 :
    after (.fcmp 0 1 2) (start 0x1000 [(0, 0xAAAAAAAA), (1, 0x1), (2, 0x3F800000)] (fpsr := 0x0))
      (fun t => t.bpc = 0x1004 ∧ fpsrWord t.fpsr = 0x80 ∧ t.pc = 0x90) = true := by decide
theorem test_bset_v331 :
    after (.bset 0x3 0x1 2) (start 0x1000 [(2, 0x2000)] (mem := bytesAt 0x2000 [0x00, 0x00, 0x00,
        0x00]))
      (fun t => t.mem.readByte 0x2001 = 0x10 ∧ t.pc = 0x1004) = true := by decide
theorem test_bset_v333 :
    after (.bset 0x0 0x0 2) (start 0x1000 [(2, 0x2003)] (lock := true) (mem := bytesAt 0x2000
        [0x00, 0x00, 0x00, 0x00]))
      (fun t => t.lock = false ∧ t.mem.readByte 0x2003 = 0x80 ∧ t.pc = 0x1004) = true := by decide
theorem test_bclr_v334 :
    after (.bclr 0x7 0xFFFF 2) (start 0x1000 [(2, 0x2001)] (mem := bytesAt 0x2000 [0xFF, 0xFF]))
      (fun t => t.mem.readByte 0x2000 = 0xFE ∧ t.pc = 0x1004) = true := by decide
theorem test_btst_v336 : after (.btst 0x0 1) (start 0x1000 [(1, 0xFFFFFF01)] (psw := 0x1))
      (fun t => pswWord t.psw = 0x0 ∧ t.pc = 0x1002) = true := by decide
theorem test_btst_v337 : after (.btst 0x7 1) (start 0x1000 [(1, 0xFFFFFF01)])
      (fun t => pswWord t.psw = 0x1 ∧ t.pc = 0x1002) = true := by decide
theorem test_setpsw_v338 : after (.setpsw 0xFF) (start 0x1000 [])
      (fun t => pswWord t.psw = 0xC1 ∧ t.pc = 0x1002) = true := by decide
theorem test_setpsw_v339 : after (.setpsw 0x80) (start 0x1000 [] (psw := 0xC100))
      (fun t => pswWord t.psw = 0xC180 ∧ t.pc = 0x1002) = true := by decide
theorem test_clrpsw_v340 : after (.clrpsw 0xFF) (start 0x1000 [] (psw := 0xC1C1))
      (fun t => pswWord t.psw = 0xC100 ∧ t.pc = 0x1002) = true := by decide
theorem test_clrpsw_v341 : after (.clrpsw 0x40) (start 0x1000 [] (psw := 0xC1))
      (fun t => pswWord t.psw = 0x81 ∧ t.pc = 0x1002) = true := by decide

/-! The words of FCMP and FCMPE whose bits are free, by class: V307, V308, V317 and V318. -/

theorem test_fcmp_order_v307_v308 :
    compareResult false resetFpsr 0 0x40000000 0x3F800000 = fpPlain (greaterWord 0) ∧
    compareResult false resetFpsr 0 0xC0000000 0x3F800000 = fpPlain (lessWord 0) := ⟨rfl, rfl⟩
theorem test_fcmpe_nan_v317 :
    compareResult true (fpsrOf 0) 0 0x7FC00000 0x00000001 = fpInvalid (invalidWord 0) := rfl
theorem test_fcmpe_less_v318 : compareResult true resetFpsr 0 0x3F800000 0x40000000 = fpPlain (lessWord 0) := rfl

/-! ## Single steps: values computed by hand from the rules R202, R205, R207, R208, R211 to R214, R216,
R218, R219, R221, R255, R262, R265, R268, R322, R327, R370, in this order -/

theorem test_ldbDisp_sign :
    after (.ldbDisp 1 0xFFFF 2) (start 0 [(2, 0x2002)] (mem := bytesAt 0x2000 [0x11, 0x80]))
      (fun t => t.readReg 1 = 0xFFFFFF80 ∧ t.pc = 4) = true := by decide
theorem test_ldubDisp_zero :
    after (.ldubDisp 1 0xFFFF 2) (start 0 [(2, 0x2002)] (mem := bytesAt 0x2000 [0x11, 0x80]))
      (fun t => t.readReg 1 = 0x80) = true := by decide
theorem test_lduhDisp_wraps :
    after (.lduhDisp 1 2 2) (start 0 [(2, 0xFFFFFFFE)] (mem := bytesAt 0 [0x81, 0x23]))
      (fun t => t.readReg 1 = 0x8123) = true := by decide
theorem test_ldhInd_sign :
    after (.ldhInd 1 2) (start 0 [(2, 0x2002)] (mem := bytesAt 0x2002 [0x81, 0x23]))
      (fun t => t.readReg 1 = 0xFFFF8123) = true := by decide
theorem test_ldPostInc_base :
    after (.ldPostInc 1 2) (start 0 [(2, 0x2000)] (mem := bytesAt 0x2000 [1, 2, 3, 4]))
      (fun t => t.readReg 1 = 0x01020304 ∧ t.readReg 2 = 0x2004) = true := by decide
theorem test_lock_sets :
    after (.lock 1 2) (start 0 [(2, 0x2000)] (mem := bytesAt 0x2000 [1, 2, 3, 4]))
      (fun t => t.readReg 1 = 0x01020304 ∧ t.lock) = true := by decide
theorem test_stInd_bytes : after (.stInd 1 2) (start 0 [(1, 0x81020304), (2, 0x2000)])
      (fun t => t.mem = bytesAt 0x2000 [0x81, 2, 3, 4]) = true := by decide
theorem test_stDisp_negative : after (.stDisp 1 0xFFFC 2) (start 0 [(1, 0x81020304), (2, 0x2000)])
      (fun t => t.mem = bytesAt 0x1FFC [0x81, 2, 3, 4]) = true := by decide
theorem test_stPreInc_base : after (.stPreInc 1 2) (start 0 [(1, 0x81020304), (2, 0x2000)])
      (fun t => t.readReg 2 = 0x2004 ∧ t.mem = bytesAt 0x2004 [0x81, 2, 3, 4]) = true := by decide
theorem test_stbDisp_low_byte : after (.stbDisp 1 0x7FFF 2) (start 0 [(1, 0x81020304), (2, 2)])
      (fun t => t.mem = bytesAt 0x8001 [4]) = true := by decide
theorem test_sthInd_low_half : after (.sthInd 1 2) (start 0 [(1, 0x81020304), (2, 0x2002)])
      (fun t => t.mem = bytesAt 0x2002 [3, 4]) = true := by decide
theorem test_sthDisp_low_half : after (.sthDisp 1 0xFFFE 2) (start 0 [(1, 0x81020304), (2, 0x2002)])
      (fun t => t.mem = bytesAt 0x2000 [3, 4]) = true := by decide
theorem test_add_wraps : after (.add 1 2) (start 0 [(1, 0xFFFFFFFF), (2, 2)])
      (fun t => t.readReg 1 = 1 ∧ t.readReg 2 = 2 ∧ ¬ t.psw.c) = true := by decide
theorem test_sub_order : after (.sub 1 2) (start 0 [(1, 2), (2, 5)])
      (fun t => t.readReg 1 = 0xFFFFFFFD) = true := by decide
theorem test_and_bits : after (.and 1 2) (start 0 [(1, 0xF0F0), (2, 0xFF00)])
      (fun t => t.readReg 1 = 0xF000) = true := by decide
theorem test_or_bits : after (.or 1 2) (start 0 [(1, 0xF0F0), (2, 0xFF00)])
      (fun t => t.readReg 1 = 0xFFF0) = true := by decide
theorem test_bnc24_taken : after (.bnc24 0xFFFFFF) (start 0x1002 [])
      (fun t => t.pc = 0xFFC) = true := by decide
theorem test_bc8_taken : after (.bc8 1) (start 0x1002 [] (psw := 1))
      (fun t => t.pc = 0x1004) = true := by decide
theorem test_mvfaclo_low : after (.mvfaclo 1) (start 0 [] (acc := 0x123456789ABCDE))
      (fun t => t.readReg 1 = 0x789ABCDE) = true := by decide

/-! ## Steps: fetch, inputs, reset -/

/-- LDI R1,#-128 placed for the next step runs from reset (R131, R232). -/
theorem test_step_runs_half :
    passes (step (State.reset.withFetchWord 16 0x6180)) (fun t => t.readReg 1 = 0xFFFFFF80 ∧ t.pc = 2) = true := by
  decide

/-- LD24 R1,#H'FEDCBA placed for the next step runs from reset (R131, R231). -/
theorem test_step_runs_word :
    passes (step (State.reset.withFetchWord 32 0xE1FEDCBA)) (fun t => t.readReg 1 = 0xFEDCBA ∧ t.pc = 4) = true := by
  decide

/-- A low-order halfword H'F000 runs as NOP, with the interrupt held off until the word boundary (R137, R521). -/
theorem test_step_low_nop :
    passes
      (step { start 2 [] (mem := bytesAt 0 [0x70, 0, 0xF0, 0]) (psw := 0x40) with
        inputs := [.interrupt] })
      (fun t => t.pc = 4 ∧ t.bpc = 0) = true := by decide

/-- The interrupt entry at a word boundary: BPC, PSW and the family's entry address (R510 to R514, R521). -/
theorem test_step_interrupt :
    passes (step { start 0x1000 [] (psw := 0xC1) with inputs := [.interrupt] })
      (fun t => t.pc = 0x80 ∧ t.bpc = 0x1000 ∧ pswWord t.psw = 0xC100) = true := by decide

/-- Reset in a run: the pc, PSW and LOCK are reset and memory is kept (R560). -/
theorem test_step_reset :
    passes
      (step { start 0x1000 [] (psw := 0xC1) (lock := true) (mem := bytesAt 0x20 [9]) with
        inputs := [.reset] })
      (fun t => t.pc = 0 ∧ pswWord t.psw = 0 ∧ ¬ t.lock ∧ t.mem.readByte 0x20 = 9) = true := by decide

/-! ## The parameter MEM_MAP (R96, R97, R103; logs 22, 46 to 48) -/

/-- A map with a device, a ROM and a hole, registers at the ends of each, LOCK 1. -/
def mapped : State :=
  { start 0x1000 [(1, 0x11223344), (2, 0x2000), (3, 0x2FFC), (4, 0x3000), (5, 0x3FFC), (6, 0x4000),
      (7, 0xFFFFFFFC), (8, 0x1FFC), (9, 0x2002)] (lock := true) with
    mem := bytesAt 0x3FFC [1, 2, 3, 4]
    memMap := [⟨0x2000, 0x2FFF, .device⟩, ⟨0x3000, 0x3FFF, .rom⟩, ⟨0x4000, 0xFFFFFFFF, .nothing⟩] }

/-- ROM is read as memory and keeps what it holds; RAM, in no region, is written. -/
theorem test_map_rom_ram :
    mapped.readWord 0x3FFC = 0x01020304 ∧ (mapped.storeWord 0x3FFC 5).mem = mapped.mem ∧
    (mapped.storeHalf 0x3000 5).mem = mapped.mem ∧ (mapped.storeByte 0x1FFF 5).mem.readByte 0x1FFF = 5 := by
  decide

/-- A device answers a read and takes a write by its own functions, and memory is not touched. -/
theorem test_map_device :
    mapped.readHalf 0x2FFE = (Config.deviceRead 0 0 0x2FFE .half).setWidth 16 ∧
    mapped.afterRead 0x2000 .byte = { mapped with device := Config.deviceAfterRead 0 0 0x2000 .byte } ∧
    mapped.storeWord 0x2FFC 5 = { mapped with device := Config.deviceAfterWrite 0 0 0x2FFC .word 5 } :=
  ⟨rfl, rfl, rfl⟩

/-- Where nothing is mapped a read gives some value and a write changes nothing. -/
theorem test_map_nothing :
    mapped.readByte 0x4000 = (Config.nothingRead 0 0x4000 .byte).setWidth 8 ∧
    mapped.storeWord 0xFFFFFFFC 5 = mapped := ⟨rfl, rfl⟩

/-- The fetch of a low-order halfword asks a device for the word that holds it (R100), and from memory reads
the halfword (R131). -/
theorem test_map_fetch_low :
    ({ mapped with pc := 0x2002 } : State).fetchedWord = (Config.deviceRead 0 0 0x2000 .fetch).setWidth 32 ∧
    ({ mapped with pc := 0x3FFE } : State).fetchBytes = [3, 4] := ⟨rfl, by decide⟩

/-- An instruction placed where a device was mapped is fetched and run. -/
theorem test_map_placed :
    passes (step ({ mapped with pc := 0x2FFE }.withFetchWord 16 0x6180))
      (fun t => t.readReg 1 = 0xFFFFFF80 ∧ t.pc = 0x3000) = true := by decide

/-! ## For each statement with premises, a state that meets them, clause by clause -/

/-- Memory with some bytes listed at both ends of the address space, LOCK 1. -/
def filled : State :=
  { start 0x1000 [(1, 0x11223344), (2, 0x2000), (3, 0xFFFFFFFC), (4, 0x2001), (5, 0x2002)] (lock := true) with
    mem := (bytesAt 0 [1, 2, 3, 4]).writeBytes 0xFFFFFFFC [5, 6, 7, 8] }

/-- A zero divisor, the division that overflows, and one of the same dividend that does not. -/
theorem witness_DivideSigned :
    ((start 0 [(1, 7)]).readReg 2).toInt = 0 ∧
    (((start 0 [(1, 0x80000000), (2, 0xFFFFFFFF)]).readReg 1).toInt = -2 ^ 31 ∧
      ((start 0 [(1, 0x80000000), (2, 0xFFFFFFFF)]).readReg 2).toInt = -1) ∧
    (((start 0 [(1, 0x80000000), (2, 1)]).readReg 2).toInt ≠ 0 ∧
      ((start 0 [(1, 0x80000000), (2, 1)]).readReg 2).toInt ≠ -1) := by decide

/-- Both ranges of control register numbers, at their ends. -/
theorem witness_ReadControl_WriteControl :
    (0 : CrNum) ∈ ([0, 1, 2, 3, 6, 7] : List CrNum) ∧ (7 : CrNum) ∈ ([0, 1, 2, 3, 6, 7] : List CrNum) ∧
    (4 : CrNum) ∉ ([0, 1, 2, 3, 6, 7] : List CrNum) ∧ (15 : CrNum) ∉ ([0, 1, 2, 3, 6, 7] : List CrNum) := by
  decide

theorem witness_NoOperation : (0x01 : BitVec 8) ≠ 0 ∧ (0xFF : BitVec 8) ≠ 0 := by decide

theorem witness_BitsInMemory : filled.mem.wf = true := by decide

/-- For each kind of address that MEM_MAP knows, an aligned effective address at both ends of the region:
the clauses of LoadWord, LoadPostIncrement, LoadNarrow, the stores, UNLOCK and the bit operations. -/
theorem witness_every_holding :
    mapped.mem.wf = true ∧ mapped.lock = true ∧
    mapped.holding (mapped.readReg 8) = .ram ∧ mapped.holding (mapped.readReg 2) = .device ∧
    mapped.holding (mapped.readReg 3) = .device ∧ mapped.holding (mapped.readReg 9) = .device ∧
    mapped.holding (mapped.readReg 4) = .rom ∧ mapped.holding (mapped.readReg 5) = .rom ∧
    mapped.holding (mapped.readReg 6) = .nothing ∧ mapped.holding (mapped.readReg 7) = .nothing ∧
    mapped.holding (mapped.readReg 8 + 4) = .device ∧ mapped.holding (mapped.readReg 6 - 4) = .rom ∧
    mapped.holding (mapped.readReg 9 + (0xFFFE : BitVec 16).signExtend 32) = .device ∧
    (∀ r ∈ ([2, 3, 4, 5, 6, 7, 8] : List Reg), (mapped.readReg r).toNat % 4 = 0) ∧
    (mapped.readReg 9).toNat % 2 = 0 := by decide

theorem witness_LoadWord :
    (filled.readReg 0).toNat % 4 = 0 ∧ (filled.readReg 3).toNat % 4 = 0 ∧
    (filled.readReg 3 + (4 : BitVec 16).signExtend 32).toNat % 4 = 0 ∧
    (filled.readReg 5 + (0xFFFE : BitVec 16).signExtend 32).toNat % 4 = 0 := by decide

theorem witness_LoadPostIncrement :
    (filled.readReg 3).toNat % 4 = 0 ∧ (1 : Reg) ≠ 3 := by decide

theorem witness_LoadNarrow :
    (filled.readReg 5).toNat % 2 = 0 ∧
    (filled.readReg 4 + (0xFFFF : BitVec 16).signExtend 32).toNat % 2 = 0 := by decide

theorem witness_StoreWord :
    filled.mem.wf = true ∧ (filled.readReg 0).toNat % 4 = 0 ∧ (filled.readReg 3).toNat % 4 = 0 ∧
    (filled.readReg 3 + (4 : BitVec 16).signExtend 32).toNat % 4 = 0 := by decide

/-- At both ends of the address space: up from H'FFFF FFFC to 0, down from 0 to H'FFFF FFFC. -/
theorem witness_StorePreModify :
    filled.mem.wf = true ∧ (filled.readReg 3 + 4).toNat % 4 = 0 ∧ (filled.readReg 0 - 4).toNat % 4 = 0 := by decide

theorem witness_StoreNarrow :
    filled.mem.wf = true ∧ (filled.readReg 5).toNat % 2 = 0 ∧
    (filled.readReg 4 + (0xFFFF : BitVec 16).signExtend 32).toNat % 2 = 0 := by decide

theorem witness_UnlockStore :
    filled.mem.wf = true ∧ (filled.readReg 2).toNat % 4 = 0 ∧ filled.lock = true ∧
    (filled.readReg 5).toNat % 4 ≠ 0 ∧ ({ filled with lock := false } : State).lock = false := by decide

theorem witness_MisalignedTraps :
    (filled.readReg 4).toNat % 4 ≠ 0 ∧ filled.lock = true ∧ (filled.readReg 5).toNat % 4 ≠ 0 ∧
    (filled.readReg 2 + (0xFFFF : BitVec 16).signExtend 32).toNat % 4 ≠ 0 ∧
    (filled.readReg 4 + 4).toNat % 4 ≠ 0 ∧ (filled.readReg 4 - 4).toNat % 4 ≠ 0 ∧
    (filled.readReg 4).toNat % 2 ≠ 0 ∧
    (filled.readReg 2 + (0xFFFF : BitVec 16).signExtend 32).toNat % 2 ≠ 0 := by decide

/-- 1 / 0 with the enable EZ 1, which raises, and with it 0, which does not. -/
theorem witness_FpArithmeticCommits :
    FpRaises (fpsrOf 0x1100) (fpTwoOperand divTable (fpsrOf 0x1100) false 0x3F800000 0).detected ∧
    ¬ FpRaises (fpsrOf 0x0100) (fpTwoOperand divTable (fpsrOf 0x0100) false 0x3F800000 0).detected := by
  unfold FpRaises; decide

theorem witness_MaskedFpCompletes :
    (Instr.fdiv 0 1 2).isFloat = true ∧ FpMasked State.reset.fpsr :=
  ⟨rfl, ⟨rfl, rfl, rfl, rfl, rfl, rfl⟩⟩

/-- The ends of the ranges of the operand classes, and both values of DN. -/
theorem witness_FpOperandClasses :
    fpClass 0x7F800001 = .snan ∧ fpClass 0xFFBFFFFF = .snan ∧
    fpClass 0x7FC00000 = .qnan ∧ fpClass 0xFFFFFFFF = .qnan ∧
    fpClass 0x00000001 = .denormalized ∧ fpClass 0x807FFFFF = .denormalized ∧
    fpClass 0x00800000 = .normalized ∧ fpClass 0x80000000 = .zero ∧ fpClass 0x7F800000 = .infinity ∧
    resetFpsr.dn = true ∧ (fpsrOf 0).dn = false := by decide

theorem witness_FpSpecialCells :
    fpClass 0x00800000 = .normalized ∧ fpClass 0xFF7FFFFF = .normalized := by decide

/-- Two normalized operands with a zero sum, two with a zero difference, and two with neither. -/
theorem witness_FpExactCells :
    fpClass 0x3F800000 = .normalized ∧ fpClass 0xBF800000 = .normalized ∧
    fpValue 0x3F800000 + fpValue 0xBF800000 = 0 ∧ fpValue 0x3F800000 - fpValue 0x3F800000 = 0 ∧
    fpValue 0x3F800000 + fpValue 0x3F800000 ≠ 0 := by
  have one : fpValue 0x3F800000 = 1 := by simp [fpValue, BitVec.getLsbD, Nat.testBit]
  have minusOne : fpValue 0xBF800000 = -1 := by simp [fpValue, BitVec.getLsbD, Nat.testBit]
  refine ⟨by decide, by decide, ?_, ?_, ?_⟩ <;> norm_num [one, minusOne]

theorem witness_RoundingDirections :
    (Exact.Means { neg := true, num := 1, den := 3 } (-1 / 3)) := by
  norm_num [Exact.Means, Exact.value]

/-- Just below 2^-126, at it, and a number that rounds to 2^128. -/
theorem witness_FinishResults :
    Exact.Means { neg := false, num := 1, den := 2 ^ 127 } (1 / 2 ^ 127) ∧
    |(1 / 2 ^ 127 : ℚ)| < 1 / 2 ^ 126 ∧
    Exact.Means { neg := true, num := 1, den := 2 ^ 126 } (-(1 / 2 ^ 126)) ∧
    1 / 2 ^ 126 ≤ |(-(1 / 2 ^ 126) : ℚ)| ∧
    Exact.Means { neg := false, num := 2 ^ 128, den := 1 } (2 ^ 128) ∧ 1 / 2 ^ 126 ≤ |(2 ^ 128 : ℚ)| := by
  norm_num [Exact.Means, Exact.value, abs_of_pos]

/-- The two sides of the exponent clauses: 2^128 rounds to itself with exponent 128, 1 with exponent 0. -/
theorem witness_FinishResults_exponents :
    (RoundsTo .nearest (2 ^ 128) ⟨false, 128, 2 ^ 23, false⟩ 128 (2 ^ 23) ∧
      (127 : Int) < (⟨false, 128, 2 ^ 23, false⟩ : Rounded).exponent) ∧
    (RoundsTo .nearest 1 ⟨false, 0, 2 ^ 23, false⟩ 0 (2 ^ 23) ∧
      (⟨false, 0, 2 ^ 23, false⟩ : Rounded).exponent ≤ (127 : Int)) := by
  refine ⟨⟨⟨?_, ?_, ?_, ?_, ?_, ?_, ?_⟩, ?_⟩, ⟨?_, ?_, ?_, ?_, ?_, ?_, ?_⟩, ?_⟩ <;>
    norm_num [RoundsToInteger, abs_of_pos, zpow_neg]

/-- The product step of a multiply-add, whose outcome the clauses are about. -/
def productStep (f : Fpsr) (a b : Word) : FpResult :=
  fpTwoOperand mulTable { f with rm := .towardZero } false a b

set_option exponentiation.threshold 300 in
set_option maxRecDepth 2000 in
/-- A product that raises, one that overflows unraised, one that is a number, one that is a NaN, and the
classes of c. -/
theorem witness_MultiplyAddSteps :
    FpRaises (fpsrOf 0x0900) (productStep (fpsrOf 0x0900) 0x7F7FFFFF 0x40000000).detected ∧
    (¬ FpRaises resetFpsr (productStep resetFpsr 0x7F7FFFFF 0x40000000).detected ∧
      (productStep resetFpsr 0x7F7FFFFF 0x40000000).detected.ovf = true) ∧
    (¬ FpRaises resetFpsr (productStep resetFpsr 0x3F800001 0x3F800001).detected ∧
      (productStep resetFpsr 0x3F800001 0x3F800001).detected.ovf = false ∧
      fpClass (productStep resetFpsr 0x3F800001 0x3F800001).value = .normalized) ∧
    (¬ FpRaises resetFpsr (productStep resetFpsr 0 0x7F800000).detected ∧
      fpClass (productStep resetFpsr 0 0x7F800000).value = .qnan) ∧
    fpClass 0xBF800002 = .normalized ∧ fpClass 0x80000000 = .zero ∧ fpClass 0xFF800000 = .infinity ∧
    fpClass 0x7FC00005 = .qnan ∧ fpClass 0x7F800005 = .snan := by
  unfold FpRaises; decide

set_option exponentiation.threshold 300 in
set_option maxRecDepth 2000 in
/-- The same overflow with DN = 0, and c denormalized under both values of DN. -/
theorem witness_MultiplyAddSteps_denormalized :
    (¬ FpRaises (fpsrOf 0) (productStep (fpsrOf 0) 0x7F7FFFFF 0x40000000).detected ∧
      (productStep (fpsrOf 0) 0x7F7FFFFF 0x40000000).detected.ovf = true) ∧
    fpClass 0x80000001 = .denormalized ∧ fpClass 0x007FFFFF = .denormalized ∧ resetFpsr.dn = true ∧
    (fpsrOf 0).dn = false := by
  unfold FpRaises; decide

theorem witness_IntegerToFloat :
    ((start 0 []).readReg 2).toInt = 0 ∧ ((start 0 [(2, 0x80000000)]).readReg 2).toInt ≠ 0 ∧
    ((start 0 [(2, 0xFFFFFFFF)]).readReg 2).toNat ≠ 0 := by decide

/-- Each class of source, and finite sources at and beyond the ends of both ranges. -/
theorem witness_FloatToInteger :
    fpClass 0x7FC00000 = .qnan ∧ fpClass 0x7F800001 = .snan ∧ fpClass 0xFF800000 = .infinity ∧
    fpClass 0x80000001 = .denormalized ∧ resetFpsr.dn = true ∧ (fpsrOf 0).dn = false ∧
    fpClass 0xCF000000 = .normalized ∧ fpClass 0x4F000000 = .normalized ∧ fpClass 0xC7000100 = .normalized ∧
    fpClass 0x46FFFE00 = .normalized ∧ fpClass 0 = .zero := by decide

theorem witness_FloatToInteger_range :
    fpValue 0xCF000000 = -2 ^ 31 ∧ fpValue 0x4F000000 = 2 ^ 31 ∧ fpValue 0x46FFFE00 = 2 ^ 15 - 1 := by
  simp [fpValue, BitVec.getLsbD, Nat.testBit]; norm_num

/-- A quiet NaN alone, a signalling NaN, a denormalized operand with each DN, and less, greater, equal. -/
theorem witness_FloatCompare :
    fpClass 0x7FC00000 = .qnan ∧ fpClass 0x7F800001 = .snan ∧ fpClass 0x00000001 = .denormalized ∧
    fpClass 0x3F800000 = .normalized ∧ resetFpsr.dn = true ∧ (fpsrOf 0).dn = false ∧
    FpBelow 0xFF800000 0x3F800000 ∧ FpBelow 0x3F800000 0x7F800000 ∧ ¬ FpBelow 0x3F800000 0x3F800000 := by
  refine ⟨by decide, by decide, by decide, by decide, rfl, by decide, ?_, ?_, ?_⟩ <;> simp [FpBelow]

/-- Finite operands are below one another by their values. -/
theorem witness_FloatCompare_values : FpBelow 0xBF800000 0x3F800000 := by
  refine ⟨by decide, .inr (.inr ⟨by decide, by decide, ?_⟩)⟩
  simp [fpValue, BitVec.getLsbD, Nat.testBit]

theorem witness_DecodeOfEncode :
    (Instr.mvtc 15 7).wellFormed = true ∧ (Instr.fcmpe 15 0 15).wellFormed = true ∧
    (Instr.bset 7 0xFFFF 15).wellFormed = true ∧
    encode (.subv 0 0) = .half 0x0000 ∧ encode (.bc8 0xFF) = .half 0x7CFF := by decide

theorem witness_EncodeOfDecode :
    decodeCode (.half 0x7000) = .ok .nop ∧ decodeCode (.word 0xFFFFFFFF) = .ok (.bra24 0xFFFFFF) := by decide

/-- A state whose memory holds a word of two instructions: LDI R1,#5 and ADD R1,R1. -/
def program : State := start 0 [] (mem := bytesAt 0 [0x61, 5, 1, 0xA1])

theorem witness_InvKept : program.Inv ∧ ∃ t, step program = .next t :=
  ⟨⟨by decide, by decide, by decide⟩, _, rfl⟩

theorem witness_InvAtReset : State.reset.Inv := ⟨by decide, by decide, by decide⟩

theorem witness_LowHalfOnlyByFallThrough :
    program.pc.getLsbD 0 = false ∧ ∃ t, step program = .next t ∧ t.pc.getLsbD 1 = true :=
  ⟨by decide, _, rfl, by decide⟩

/-- A pc, quiet, at bytes that decode, at a word and at its low-order half. -/
theorem witness_StepRunsDecoded :
    program.pc.getLsbD 0 = false ∧ program.input ≠ .reset ∧ program.acceptsInterrupt = false ∧
    decodeBytes (slotOf program.pc) program.fetchBytes = .ok (.ldi8 1 5, [1, 0xA1]) ∧
    decodeBytes (slotOf 2) ({ program with pc := 2 } : State).fetchBytes = .ok (.add 1 1, []) := by decide

/-- Bytes that each refusal names: H'7001, a low-order halfword H'F001, and MVFC R1,CR4. -/
theorem witness_StepRunsDecoded_refused :
    decodeBytes (slotOf 0) (start 0 [] (mem := bytesAt 0 [0x70, 1])).fetchBytes = .error .undefinedInstruction ∧
    decodeBytes (slotOf 2) (start 2 [] (mem := bytesAt 2 [0xF0, 1])).fetchBytes = .error .parallelSlot ∧
    decodeBytes (slotOf 0) (start 0 [] (mem := bytesAt 0 [0x11, 0x94])).fetchBytes =
      .error .unassignedControlRegister := by
  decide

/-- A pc in memory, in a device and where nothing is mapped, at a word and at its low-order half. -/
theorem witness_StepRunsDecoded_map :
    mapped.holding mapped.pc = .ram ∧ mapped.pc.getLsbD 0 = false ∧ mapped.input ≠ .reset ∧
    mapped.acceptsInterrupt = false ∧
    ({ mapped with pc := 0x2000 } : State).holding 0x2000 = .device ∧
    ({ mapped with pc := 0xFFFFFFFE } : State).holding ((0xFFFFFFFE : Word) &&& 0xFFFFFFFC) = .nothing ∧
    mapped.pc.toNat % 4 = 0 ∧ ({ mapped with pc := 0x3FFE } : State).pc.toNat % 4 ≠ 0 ∧
    ({ mapped with pc := 0x3FFE } : State).holding ((0x3FFE : Word) &&& 0xFFFFFFFC) = .rom := by decide

theorem witness_BoundaryEvents :
    ({ program with inputs := [.reset] } : State).input = .reset ∧
    ({ program with inputs := [.interrupt] } : State).input = .interrupt ∧
    (start 0 [] (psw := 0x40)).psw.ie = true ∧ program.psw.ie = false ∧
    program.pc.toNat % 4 = 0 ∧ (start 2 []).pc.toNat % 4 ≠ 0 := by decide

/-- CMP 1 < 2 sets C; a misaligned LD and a raising FCMP clear a C that was 1. -/
theorem witness_ConditionBitWriters :
    (∃ t, exec (.cmp 1 2) (start 0 [(1, 1), (2, 2)]) = .next t ∧
      t.psw.c ≠ (start 0 [(1, 1), (2, 2)]).psw.c) ∧
    (∃ t, exec (.ldInd 1 2) (start 0 [(2, 1)] (psw := 1)) = .next t ∧
      t.psw.c ≠ (start 0 [(2, 1)] (psw := 1)).psw.c) ∧
    ∃ t, exec (.fcmp 0 1 2) (start 0 [(1, 1)] (psw := 1) (fpsr := 0)) = .next t ∧
      t.psw.c ≠ (start 0 [(1, 1)] (psw := 1) (fpsr := 0)).psw.c :=
  ⟨⟨_, rfl, by decide⟩, ⟨_, rfl, by decide⟩, ⟨_, rfl, by decide⟩⟩

/-- ADD, which writes none of the four and sets no pc. -/
theorem witness_OnlyNamedWriters_PcAdvances :
    (∃ t, exec (.add 1 1) program = .next t) ∧ (Instr.add 1 1).writesAcc = false ∧
    (Instr.add 1 1).writesLock = false ∧ (Instr.add 1 1).writesMemory = false ∧
    (Instr.add 1 1).writesFpsr = false ∧ (Instr.add 1 1).transfers = false :=
  ⟨⟨_, rfl⟩, rfl, rfl, rfl, rfl, rfl⟩

end Sys2Proof.Tests
end

section
/-! PROOFS of the statements about the state and the whole machine (spec/10_state.md). The one case analysis
over the instructions is `exec_answers`: what an instruction changes, and where it leaves the pc. The
invariant, the writers and the pc are read off its few cases. -/

namespace Sys2Proof.Machine

/-! ## Addresses -/

/-- Bit [0] of an address is 0 exactly when the address is even. -/
theorem getLsbD_zero_iff (a : Word) : a.getLsbD 0 = false ↔ a.toNat % 2 = 0 := by
  simp [BitVec.getLsbD, Nat.testBit_zero]

/-- Bit [1] of an address is 0 exactly when the address is in the high-order half of its word. -/
theorem getLsbD_one_iff (a : Word) : a.getLsbD 1 = false ↔ a.toNat / 2 % 2 = 0 := by
  simp [BitVec.getLsbD, Nat.testBit_succ, Nat.testBit_zero]

/-- Both low-order bits of a word-aligned address are 0. -/
theorem wordAligned_bits {a : Word} (h : wordAligned a = true) : a.getLsbD 0 = false ∧ a.getLsbD 1 = false := by
  rw [wordAligned_iff] at h
  rw [getLsbD_zero_iff, getLsbD_one_iff]
  omega

/-- The entry of every event is word-aligned (R514). -/
theorem wordAligned_eitVector (s : State) (k : EitEvent) : wordAligned (s.eitVector k) = true := by
  have entry (n : WordNumber) : wordAligned (n ++ (0 : BitVec 2)) = true := by
    rw [wordAligned_iff, BitVec.toNat_append]
    simp [Nat.shiftLeft_eq]
  cases k <;> exact entry _

/-- The word that holds an address starts at a word-aligned one. -/
theorem wordAligned_wordBase (a : Word) : wordAligned (wordBase a) = true := by
  rw [wordAligned_iff, wordBase_toNat]
  omega

/-- The target of a pc-relative branch is word-aligned (R321). -/
theorem wordAligned_branchTarget {n : Nat} (s : State) (disp : BitVec n) :
    wordAligned (s.branchTarget disp) = true := by
  rw [wordAligned_iff, State.branchTarget, BitVec.toNat_add, wordBase_toNat, BitVec.toNat_shiftLeft,
    Nat.shiftLeft_eq]
  omega

/-- The target of JL is word-aligned, whichever R14 it takes (R334). -/
theorem wordAligned_jumpLinkTarget (s : State) (src : Reg) : wordAligned (jumpLinkTarget s src) = true := by
  unfold jumpLinkTarget
  split <;> exact wordAligned_wordBase _

/-- Bit [0] of what BPC takes is 0 (R46). -/
theorem clearBit0_even (v : Word) : (clearBit0 v).getLsbD 0 = false := by
  simp [clearBit0]

/-- BPC after RTE is even, whatever is drawn (R352). -/
theorem bpcAfterRte_even (x : BitVec 31) : (x ++ (0 : BitVec 1)).getLsbD 0 = false := by
  rw [BitVec.getLsbD_append]
  rfl

/-! ## Lengths -/

/-- An instruction is two or four bytes long (R130). -/
theorem length_cases (i : Instr) : i.length = 2 ∨ i.length = 4 := by
  unfold Instr.length
  cases encode i
  · exact .inl rfl
  · exact .inr rfl

/-- What decodes from a halfword is two bytes long (R131): row by row of R150, an entry is no instruction or
one whose code is a halfword. -/
theorem length_of_decodeHalf {h : Half} {i : Instr} (hi : decodeHalf h = .ok i) : i.length = 2 := by
  unfold decodeHalf decodeNibbles at hi
  split at hi
  case h_1 => unfold decodeRow0 at hi; (repeat' split at hi) <;> cases hi <;> rfl
  case h_2 => dsimp only [decodeRow1] at hi; (repeat' split at hi) <;> cases hi <;> rfl
  case h_3 => unfold decodeRow2 at hi; split at hi <;> cases hi <;> rfl
  case h_4 => unfold decodeRow3 at hi; split at hi <;> cases hi <;> rfl
  case h_6 => unfold decodeRow5 at hi; (repeat' split at hi) <;> cases hi <;> rfl
  case h_8 => unfold decodeRow7 at hi; (repeat' split at hi) <;> cases hi <;> rfl
  all_goals cases hi <;> rfl

/-- What decodes in a low-order halfword is two bytes long: a 16-bit instruction or NOP in the parallel
slot (R131, R136). -/
theorem length_of_decodeLowSlot {h : Half} {i : Instr} (hi : decodeLowSlot h = .ok i) : i.length = 2 := by
  unfold decodeLowSlot at hi
  split at hi
  · split at hi <;> cases hi
    rfl
  · exact length_of_decodeHalf hi

/-- What is fetched in a low-order halfword is two bytes long. -/
theorem length_of_fetch_low {s : State} {i : Instr} (hp : wordAligned s.pc = false) (hi : s.fetch = .ok i) :
    i.length = 2 := by
  obtain ⟨h, hb⟩ : ∃ h, decodeBytes (slotOf s.pc) s.fetchBytes = withRest [] (decodeLowSlot h) :=
    ⟨_, by simp only [slotOf, State.fetchBytes, hp]; rfl⟩
  rw [State.fetch, hb] at hi
  cases hd : decodeLowSlot h with
  | ok j =>
    rw [hd] at hi
    cases hi
    exact length_of_decodeLowSlot hd
  | error e =>
    rw [hd] at hi
    cases hi

/-! ## What an instruction may change before the pc moves

One rule for each operation on the state: which name an instruction must have to use it. -/

/-- From `s` to `t` only registers changed, and the pieces that `i` is named a writer of; memory stays
canonical, bit [0] of BPC stays 0, and the pc has not moved yet. -/
structure OnlyNamed (i : Instr) (s t : State) : Prop where
  c : i.writesC = false → t.psw.c = s.psw.c
  acc : i.writesAcc = false → t.acc = s.acc
  lock : i.writesLock = false → t.lock = s.lock
  mem : i.writesMemory = false → t.mem = s.mem
  fpsr : i.writesFpsr = false → t.fpsr = s.fpsr
  device : i.readsMemory = false → i.writesMemory = false → t.device = s.device
  vectors : t.vectors = s.vectors
  memMap : t.memMap = s.memMap
  inputs : t.inputs = s.inputs
  drawIndex : t.drawIndex = s.drawIndex
  memWf : s.mem.wf = true → t.mem.wf = true
  bpcEven : s.bpc.getLsbD 0 = false → t.bpc.getLsbD 0 = false
  pc : t.pc = s.pc

namespace OnlyNamed

variable {i : Instr} {s t u : State}

theorem refl (i : Instr) (s : State) : OnlyNamed i s s := by constructor <;> simp

theorem trans (h : OnlyNamed i s t) (k : OnlyNamed i t u) : OnlyNamed i s u where
  c n := (k.c n).trans (h.c n)
  acc n := (k.acc n).trans (h.acc n)
  lock n := (k.lock n).trans (h.lock n)
  mem n := (k.mem n).trans (h.mem n)
  fpsr n := (k.fpsr n).trans (h.fpsr n)
  device n m := (k.device n m).trans (h.device n m)
  vectors := k.vectors.trans h.vectors
  memMap := k.memMap.trans h.memMap
  inputs := k.inputs.trans h.inputs
  drawIndex := k.drawIndex.trans h.drawIndex
  memWf w := k.memWf (h.memWf w)
  bpcEven e := k.bpcEven (h.bpcEven e)
  pc := k.pc.trans h.pc

theorem writeReg (h : OnlyNamed i s t) (d : Reg) (v : Word) : OnlyNamed i s (t.writeReg d v) :=
  h.trans (by constructor <;> simp)

theorem withPsw (h : OnlyNamed i s t) {p : Psw} (hc : i.writesC = false → p.c = t.psw.c) :
    OnlyNamed i s { t with psw := p } :=
  { h with c := fun n => (hc n).trans (h.c n) }

theorem withBpc (h : OnlyNamed i s t) {b : Word} (hb : b.getLsbD 0 = false) :
    OnlyNamed i s { t with bpc := b } :=
  { h with bpcEven := fun _ => hb }

theorem withFpsr (h : OnlyNamed i s t) (f : Fpsr) (hw : i.writesFpsr = true) :
    OnlyNamed i s { t with fpsr := f } :=
  { h with fpsr := by simp [hw] }

theorem withAcc (h : OnlyNamed i s t) (a : BitVec 56) (hw : i.writesAcc = true) :
    OnlyNamed i s { t with acc := a } :=
  { h with acc := by simp [hw] }

theorem setLock (h : OnlyNamed i s t) (b : Bool) (hw : i.writesLock = true) : OnlyNamed i s (t.setLock b) :=
  { h with lock := by simp [hw] }

theorem afterRead (h : OnlyNamed i s t) (a : Word) (n : Access) (hr : i.readsMemory = true) :
    OnlyNamed i s (t.afterRead a n) :=
  h.trans (by constructor <;> simp [hr])

/-- A write by a named writer, of memory that stays canonical. -/
theorem writeAs (h : OnlyNamed i s t) (a : Word) (n : Access) (v : Word) {m : Memory}
    (hw : i.writesMemory = true) (hm : t.mem.wf = true → m.wf = true) : OnlyNamed i s (t.writeAs a n v m) := by
  refine h.trans ?_
  constructor
  case memWf =>
    rw [State.writeAs_mem]
    split
    · exact hm
    · exact id
  all_goals simp [hw]

theorem storeWord (h : OnlyNamed i s t) (a v : Word) (hw : i.writesMemory = true) :
    OnlyNamed i s (t.storeWord a v) :=
  h.writeAs a .word v hw (t.mem.wf_writeWord a v)

theorem storeHalf (h : OnlyNamed i s t) (a : Word) (v : Half) (hw : i.writesMemory = true) :
    OnlyNamed i s (t.storeHalf a v) :=
  h.writeAs a .half _ hw (t.mem.wf_writeHalf a v)

theorem storeByte (h : OnlyNamed i s t) (a : Word) (v : Byte) (hw : i.writesMemory = true) :
    OnlyNamed i s (t.storeByte a v) :=
  h.writeAs a .byte _ hw (t.mem.wf_writeByte a v)

end OnlyNamed

/-! ## What an instruction answers

`Answer` lists everything an instruction can do; one lemma for each shared operation of the meanings, and one
for each instruction that is its own, say which of it the operation does. -/

/-- Everything that `exec i s` can answer. -/
inductive Answer (i : Instr) (s : State) : Result → Prop
  /-- It completes, and the pc moves by its length. -/
  | completes {u : State} (named : OnlyNamed i s u) : Answer i s (.next (u.advance (.ofNat 32 i.length)))
  /-- It sets the pc to a word-aligned address. -/
  | transfers {u : State} {target : Word} (sets : i.transfers = true) (named : OnlyNamed i s u)
      (aligned : wordAligned target = true) : Answer i s (.next (u.goto target))
  /-- It takes the address exception. -/
  | addressTrap (raises : i.raisesAe = true) : Answer i s (.next s.raiseAe)
  /-- It takes the floating-point exception, only the FPSR written before. -/
  | floatTrap {f : Fpsr} {x : Detected} (float : i.isFloat = true)
      (trapped : FpTrapped x s ({ s with fpsr := f } : State).raiseFpe) :
      Answer i s (.next ({ s with fpsr := f } : State).raiseFpe)
  /-- Its control register number names none (R57, log 14). -/
  | unassigned (ill : i.wellFormed = false) : Answer i s (.refused .unassignedControlRegister)
  /-- It is UNLOCK of a misaligned address while the LOCK bit is 0 (R222, log 20). -/
  | unlockMisaligned {a b : Reg} (unlock : i = .unlock a b) (lock : s.lock = false)
      (misaligned : (s.readReg b).toNat % 4 ≠ 0) : Answer i s (.refused .unlockMisaligned)

section Operations

variable {i : Instr} {s u : State}

/-- An instruction of `len` bytes that completes. -/
theorem Answer.advance {len : Word} (hl : len = .ofNat 32 i.length) (h : OnlyNamed i s u) :
    Answer i s (.next (u.advance len)) := hl ▸ .completes h

theorem answer_writeNext {d : Reg} {v len : Word} (hl : len = .ofNat 32 i.length) :
    Answer i s (writeNext s d v len) :=
  .advance hl ((OnlyNamed.refl i s).writeReg d v)

theorem answer_flagNext {c : Bool} {len : Word} (hl : len = .ofNat 32 i.length) (hc : i.writesC = true) :
    Answer i s (flagNext s c len) :=
  .advance hl ((OnlyNamed.refl i s).withPsw (by simp [hc]))

theorem answer_writeFlagNext {d : Reg} {v len : Word} {c : Bool} (hl : len = .ofNat 32 i.length)
    (hc : i.writesC = true) : Answer i s (writeFlagNext s d v c len) :=
  .advance hl (((OnlyNamed.refl i s).writeReg d v).withPsw (by simp [hc]))

theorem answer_accNext {v : Int} (hl : 2 = BitVec.ofNat 32 i.length) (ha : i.writesAcc = true) :
    Answer i s (accNext s v) :=
  .advance hl ((OnlyNamed.refl i s).withAcc _ ha)

theorem answer_divideNext {d r : Reg} {v : Word} (hl : 4 = BitVec.ofNat 32 i.length) :
    Answer i s (divideNext s d r v) := by
  unfold divideNext
  split
  · exact .advance hl (.refl i s)
  · exact answer_writeNext hl

theorem answer_onWordAddress {ea : Word} (hr : i.raisesAe = true) (h : Answer i s (.next u)) :
    Answer i s (onWordAddress s ea u) := by
  unfold onWordAddress
  split
  · exact h
  · exact .addressTrap hr

theorem answer_onHalfAddress {ea : Word} (hr : i.raisesAe = true) (h : Answer i s (.next u)) :
    Answer i s (onHalfAddress s ea u) := by
  unfold onHalfAddress
  split
  · exact h
  · exact .addressTrap hr

/-- An aligned load of any size. -/
theorem answer_load {a v len : Word} {n : Access} {d : Reg} (hl : len = .ofNat 32 i.length)
    (hr : i.readsMemory = true) : Answer i s (.next (((s.afterRead a n).writeReg d v).advance len)) :=
  .advance hl (((OnlyNamed.refl i s).afterRead a n hr).writeReg d v)

theorem answer_modifyByte (ea : Word) (f : Byte → Byte) (hl : 4 = BitVec.ofNat 32 i.length)
    (hr : i.readsMemory = true) (hw : i.writesMemory = true) (hk : i.writesLock = true) :
    Answer i s (modifyByte s ea f) :=
  .advance hl ((((OnlyNamed.refl i s).afterRead ea .byte hr).storeByte ea _ hw).setLock false hk)

theorem answer_branchIf {taken : Bool} {target len : Word} (hl : len = .ofNat 32 i.length)
    (ht : i.transfers = true) (ha : wordAligned target = true) : Answer i s (branchIf s taken target len) := by
  cases taken
  · exact .advance hl (.refl i s)
  · exact .transfers ht (.refl i s) ha

theorem answer_branchLink {target : Word} (ht : i.transfers = true) (ha : wordAligned target = true) :
    Answer i s (branchLink s target) :=
  .transfers ht ((OnlyNamed.refl i s).writeReg 14 _) ha

/-- A floating-point instruction writes the FPSR (R406). -/
theorem writesFpsr_of_isFloat (h : i.isFloat = true) : i.writesFpsr = true := by
  unfold Instr.writesFpsr
  split
  · cases h
  · exact h

theorem answer_fpCommit {d : Reg} {x : FpResult} (hl : 4 = BitVec.ofNat 32 i.length) (hf : i.isFloat = true) :
    Answer i s (fpCommit s d x) := by
  by_cases ht : fpTraps s.fpsr x.detected = true
  · have he : fpCommit s d x = .next ({ s with fpsr := fpsrAfter s.fpsr x.detected } : State).raiseFpe :=
      if_pos ht
    rcases fpCommit_next he with ⟨_, trapped⟩ | ⟨hn, _⟩
    · exact he ▸ .floatTrap hf trapped
    · exact absurd ((fpTraps_iff _ _).1 ht) hn
  · have he : fpCommit s d x =
        .next ((({ s with fpsr := fpsrAfter s.fpsr x.detected } : State).writeReg d x.value).advance 4) :=
      if_neg ht
    exact he ▸ .advance hl (((OnlyNamed.refl i s).withFpsr _ (writesFpsr_of_isFloat hf)).writeReg d _)

end Operations

/-- A control register number that reads as nothing is not assigned (R57). -/
theorem assigned_of_readCr_none {s : State} {cr : CrNum} (h : s.readCr cr = none) : cr.assigned = false := by
  rcases crNum_cases cr with rfl | rfl | rfl | rfl | rfl | rfl | ⟨ha, _⟩
  case inr.inr.inr.inr.inr.inr => exact ha
  all_goals cases h

/-- A control register number that nothing can be written to is not assigned (R57). -/
theorem assigned_of_writeCr_none {s : State} {cr : CrNum} {v : Word} (h : s.writeCr cr v = none) :
    cr.assigned = false := by
  rcases crNum_cases cr with rfl | rfl | rfl | rfl | rfl | rfl | ⟨ha, _⟩
  case inr.inr.inr.inr.inr.inr => exact ha
  all_goals cases h

theorem answer_mvfc (d : Reg) (cr : CrNum) (s : State) : Answer (.mvfc d cr) s (execMvfc d cr s) := by
  unfold execMvfc
  cases h : s.readCr cr with
  | some v => exact answer_writeNext rfl
  | none => exact .unassigned (assigned_of_readCr_none h)

/-- What MVTC writes: the PSW through CR0, the FPSR through CR7, BPC with bit [0] cleared, or a stack
pointer (R236). -/
theorem onlyNamed_writeCr {s t : State} {r : Reg} {cr : CrNum} {v : Word} (h : s.writeCr cr v = some t) :
    OnlyNamed (.mvtc r cr) s t := by
  have same := OnlyNamed.refl (.mvtc r cr) s
  rcases writeCr_some h with ⟨rfl, rfl⟩ | ⟨rfl, rfl⟩ | ⟨rfl, rfl⟩ | ⟨rfl, rfl⟩ | ⟨rfl, rfl⟩ | ⟨rfl, rfl⟩
  · exact same.withPsw nofun
  · exact same
  · exact { same with }
  · exact { same with }
  · exact same.withBpc (clearBit0_even v)
  · exact same.withFpsr _ rfl

theorem answer_mvtc (r : Reg) (cr : CrNum) (s : State) : Answer (.mvtc r cr) s (execMvtc r cr s) := by
  unfold execMvtc
  cases h : s.writeCr cr (s.readReg r) with
  | some t => exact .advance rfl (onlyNamed_writeCr h)
  | none => exact .unassigned (assigned_of_writeCr_none h)

theorem answer_unlock (a b : Reg) (s : State) : Answer (.unlock a b) s (execUnlock a b s) := by
  have same := OnlyNamed.refl (.unlock a b) s
  unfold execUnlock
  split
  · exact answer_onWordAddress rfl (.advance rfl ((same.storeWord _ _ rfl).setLock false rfl))
  · next hl =>
    split
    · exact .advance rfl (same.setLock false rfl)
    · next ha => exact .unlockMisaligned rfl (by simpa using hl) fun e => ha ((wordAligned_iff _).2 e)

/-- SETPSW without its bit for C leaves C (R484). -/
theorem answer_setpsw (imm : BitVec 8) (s : State) : Answer (.setpsw imm) s (execSetpsw imm s) :=
  .advance rfl ((OnlyNamed.refl _ s).withPsw fun (n : imm.getLsbD 0 = false) => by
    simp only [pswAfterSet, n, Bool.or_false])

/-- CLRPSW without its bit for C leaves C (R485). -/
theorem answer_clrpsw (imm : BitVec 8) (s : State) : Answer (.clrpsw imm) s (execClrpsw imm s) :=
  .advance rfl ((OnlyNamed.refl _ s).withPsw fun (n : imm.getLsbD 0 = false) => by
    simp only [pswAfterClear, n, Bool.not_false, Bool.and_true])

theorem answer_trap (n : Fin 16) (s : State) : Answer (.trap n) s (execTrap n s) :=
  have pieces := ((OnlyNamed.refl (.trap n) s).withPsw (p := pswAfterEntry (.trap n) s.psw) nofun).withBpc
    (clearBit0_even (s.pc + 4))
  .transfers (u := { s with psw := pswAfterEntry (.trap n) s.psw, bpc := clearBit0 (s.pc + 4) }) rfl pieces
    (wordAligned_eitVector s (.trap n))

theorem answer_rte (s : State) : Answer .rte s (execRte s) :=
  have pieces := ((OnlyNamed.refl .rte s).withPsw (p := s.eitReturn.psw) nofun).withBpc
    (bpcAfterRte_even (Config.bpcAfterRte s.drawIndex))
  .transfers (u := { s with psw := s.eitReturn.psw, bpc := s.eitReturn.bpc }) rfl pieces
    (wordAligned_wordBase s.bpc)

/-- What every instruction answers from every state. -/
theorem exec_answers (i : Instr) (s : State) : Answer i s (exec i s) := by
  have same := OnlyNamed.refl i s
  cases i with
  | ldInd | ldDisp => exact answer_onWordAddress rfl (answer_load rfl rfl)
  | ldhInd | ldhDisp | lduhInd | lduhDisp => exact answer_onHalfAddress rfl (answer_load rfl rfl)
  | ldbInd | ldbDisp | ldubInd | ldubDisp => exact answer_load rfl rfl
  | ldPostInc d src =>
    exact answer_onWordAddress rfl (.advance rfl (((same.afterRead _ _ rfl).writeReg src _).writeReg d _))
  | lock d src =>
    exact answer_onWordAddress rfl (.advance rfl (((same.afterRead _ _ rfl).setLock true rfl).writeReg d _))
  | stInd | stDisp => exact answer_onWordAddress rfl (.advance rfl (same.storeWord _ _ rfl))
  | stPreInc a b | stPreDec a b =>
    exact answer_onWordAddress rfl (.advance rfl ((same.storeWord _ _ rfl).writeReg b _))
  | sthInd | sthDisp => exact answer_onHalfAddress rfl (.advance rfl (same.storeHalf _ _ rfl))
  | sthPostInc a b => exact answer_onHalfAddress rfl (.advance rfl ((same.storeHalf _ _ rfl).writeReg b _))
  | stbInd | stbDisp => exact .advance rfl (same.storeByte _ _ rfl)
  | unlock => exact answer_unlock _ _ s
  | mvfc => exact answer_mvfc _ _ s
  | mvtc => exact answer_mvtc _ _ s
  | ld24 | ldi8 | ldi16 | mv | seth | add | add3 | addi | neg | sub | and | and3 | not | or | or3 | xor | xor3
  | sll | sll3 | slli | sra | sra3 | srai | srl | srl3 | srli | mvfachi | mvfaclo | mvfacmi =>
    exact answer_writeNext rfl
  | cmp | cmpi | cmpu | cmpui | btst => exact answer_flagNext rfl rfl
  | addv | addv3 | addx | subv | subx => exact answer_writeFlagNext rfl rfl
  | div | divu | rem | remu => exact answer_divideNext rfl
  | mul d => exact .advance rfl ((same.withAcc _ rfl).writeReg d _)
  | bc8 | bc24 | bnc8 | bnc24 | beq | bne | beqz | bnez | bltz | bgez | blez | bgtz =>
    exact answer_branchIf rfl rfl (wordAligned_branchTarget s _)
  | bl8 | bl24 => exact answer_branchLink rfl (wordAligned_branchTarget s _)
  | jl src => exact answer_branchLink rfl (wordAligned_jumpLinkTarget s src)
  | bra8 | bra24 => exact .transfers rfl same (wordAligned_branchTarget s _)
  | jmp => exact .transfers rfl same (wordAligned_wordBase _)
  | nop => exact .advance rfl same
  | trap n => exact answer_trap n s
  | rte => exact answer_rte s
  | mulhi | mullo | mulwhi | mulwlo | machi | maclo | macwhi | macwlo | rac | rach => exact answer_accNext rfl rfl
  | mvtachi | mvtaclo => exact .advance rfl (same.withAcc _ rfl)
  | fadd | fsub | fmul | fdiv | fmadd | fmsub | itof | utof | ftoi | ftos | fcmp | fcmpe =>
    exact answer_fpCommit rfl rfl
  | bset t disp src => exact answer_modifyByte (s.eaDisp src disp) (fun b => b ||| bitMask t) rfl rfl rfl rfl
  | bclr t disp src => exact answer_modifyByte (s.eaDisp src disp) (fun b => b &&& ~~~ bitMask t) rfl rfl rfl rfl
  | setpsw imm => exact answer_setpsw imm s
  | clrpsw imm => exact answer_clrpsw imm s

/-- What an instruction that answers a next state did. -/
theorem answer_of_next {i : Instr} {s t : State} (he : exec i s = .next t) : Answer i s (.next t) :=
  he ▸ exec_answers i s

/-- An instruction moves the pc by its length or goes to a word-aligned address. -/
theorem exec_pc {i : Instr} {s t : State} (he : exec i s = .next t) :
    t.pc = s.pc + .ofNat 32 i.length ∨ wordAligned t.pc = true := by
  cases answer_of_next he with
  | completes named => exact .inl (congrArg (· + _) named.pc)
  | transfers _ _ aligned => exact .inr aligned
  | addressTrap => exact .inr (wordAligned_eitVector s .ae)
  | floatTrap => exact .inr (wordAligned_eitVector _ .fpe)

/-! ## What a step does -/

/-- A step is a reset, the entry of the external interrupt, or the instruction fetched. -/
theorem step_next {s t : State} (h : step s = .next t) :
    t = s.hostReset ∨ t = s.takeInterrupt ∨
      ∃ i, s.tick.fetch = .ok i ∧ exec i s.tick.afterFetch = .next t := by
  unfold step at h
  split at h
  · cases h
    exact .inl rfl
  split at h
  · cases h
  split at h
  · cases h
    exact .inr (.inl rfl)
  split at h
  · next i hi => exact .inr (.inr ⟨i, hi, h⟩)
  · cases h

/-! ## The invariant -/

namespace State.Inv

variable {s t : State}

/-- The invariant looks at memory, the pc and BPC alone. -/
theorem congr (h : s.Inv) (hm : t.mem = s.mem) (hp : t.pc = s.pc) (hb : t.bpc = s.bpc) : t.Inv where
  memory := hm ▸ h.memory
  pcEven := hp ▸ h.pcEven
  bpcEven := hb ▸ h.bpcEven

/-- EIT entry goes to a word-aligned address and saves an even one. -/
theorem eitEntry (h : s.Inv) (k : EitEvent) (savedPc : Word) : (s.eitEntry k savedPc).Inv where
  memory := h.memory
  pcEven := (wordAligned_bits (wordAligned_eitVector s k)).1
  bpcEven := clearBit0_even savedPc

/-- A two- or four-byte instruction leaves an even pc even. -/
theorem advance (h : s.Inv) (i : Instr) : (s.advance (.ofNat 32 i.length)).Inv where
  memory := h.memory
  pcEven := by
    have even := (getLsbD_zero_iff s.pc).1 h.pcEven
    rw [getLsbD_zero_iff, State.advance_pc, BitVec.toNat_add]
    rcases length_cases i with hl | hl <;> rw [hl] <;> simp <;> omega
  bpcEven := h.bpcEven

/-- What an instruction changes before the pc moves keeps the invariant. -/
theorem onlyNamed {i : Instr} (h : s.Inv) (named : OnlyNamed i s t) : t.Inv where
  memory := named.memWf h.memory
  pcEven := named.pc ▸ h.pcEven
  bpcEven := named.bpcEven h.bpcEven

/-- Every instruction keeps the invariant. -/
theorem of_exec (h : s.Inv) {i : Instr} (he : exec i s = .next t) : t.Inv := by
  cases answer_of_next he with
  | completes named => exact (h.onlyNamed named).advance i
  | transfers _ named aligned =>
    obtain ⟨memory, -, bpcEven⟩ := h.onlyNamed named
    exact ⟨memory, (wordAligned_bits aligned).1, bpcEven⟩
  | addressTrap => exact h.eitEntry .ae s.pc
  | @floatTrap f =>
    have written : ({ s with fpsr := f } : State).Inv := h.congr rfl rfl rfl
    exact written.eitEntry .fpe _

end State.Inv

/-- Settles O51: reset and the interrupt's entry keep the invariant, and so does every instruction. -/
theorem invKept : Obligations.InvKept := by
  intro s t h hs
  rcases step_next hs with rfl | rfl | ⟨i, -, he⟩
  · exact ⟨h.memory, by simp, by simp⟩
  · have ticked : s.tick.Inv := h.congr rfl rfl rfl
    exact ticked.eitEntry .ei s.pc
  · have fetched : s.tick.afterFetch.Inv := h.congr (State.afterRead_mem ..) (State.afterRead_pc ..)
      (State.afterRead_bpc ..)
    exact fetched.of_exec he

/-- Settles O52: memory at reset is canonical, the pc and BPC are 0. -/
theorem invAtReset : Obligations.InvAtReset := ⟨reset_memory_wf, rfl, rfl⟩

/-! ## The low-order halfword -/

/-- Of two and four bytes, only two from a word boundary lead from an even address to a low-order halfword,
when no more than two are there in a low-order halfword. -/
theorem falls_through_of_low {a : Word} {n : Nat} (even : a.getLsbD 0 = false) (hn : n = 2 ∨ n = 4)
    (short : wordAligned a = false → n = 2) (low : wordAligned (a + .ofNat 32 n) = false) :
    a.getLsbD 1 = false ∧ n = 2 := by
  rw [← Bool.not_eq_true, wordAligned_iff] at short low
  rw [getLsbD_zero_iff] at even
  rw [getLsbD_one_iff]
  rcases hn with rfl | rfl <;> simp at low short <;> omega

/-- Settles O60: only an instruction that moves the pc by its length leaves it there, and that length is 2
both from a low-order halfword, where only two bytes decode, and from a word boundary. -/
theorem lowHalfOnlyByFallThrough : Obligations.LowHalfOnlyByFallThrough := by
  intro s t even hs low
  have notAligned : ¬ wordAligned t.pc = true := fun e => Bool.noConfusion (low.symm.trans (wordAligned_bits e).2)
  rcases step_next hs with rfl | rfl | ⟨i, hi, he⟩
  · exact absurd rfl notAligned
  · exact absurd (wordAligned_eitVector s.tick .ei) notAligned
  · have moved : t.pc = s.pc + .ofNat 32 i.length := by
      simpa [State.afterFetch] using (exec_pc he).resolve_right notAligned
    rw [moved, Bool.not_eq_true] at notAligned
    obtain ⟨high, length⟩ := falls_through_of_low even (length_cases i)
      (fun low => length_of_fetch_low (s := s.tick) low hi) notAligned
    exact ⟨high, by rw [moved, length]; rfl⟩

/-! ## Writers, the pc, and refusals -/

/-- Settles O56: what is no named writer of C leaves it, unless it takes one of the two exceptions. -/
theorem conditionBitWriters : Obligations.ConditionBitWriters := by
  intro i s t he changed
  cases answer_of_next he with
  | completes named | transfers _ named =>
    exact .inl (Bool.eq_true_of_not_eq_false fun silent => changed (named.c silent))
  | addressTrap raises => exact .inr (.inl ⟨raises, raiseAe_trap s⟩)
  | floatTrap float trapped => exact .inr (.inr ⟨float, _, trapped⟩)

/-- Settles O57: a completed instruction keeps what it is not named a writer of, and the entry of an exception
keeps all of it but the FPSR, which every floating-point instruction writes. -/
theorem onlyNamedWriters : Obligations.OnlyNamedWriters := by
  intro i s t he
  cases answer_of_next he with
  | completes named | transfers _ named =>
    exact ⟨named.acc, named.lock, fun n a => congrArg (·.readByte a) (named.mem n), named.fpsr, named.device,
      named.vectors, named.memMap, named.inputs, named.drawIndex⟩
  | addressTrap => simp [State.raiseAe, SameMemory]
  | floatTrap float => simp [State.raiseFpe, SameMemory, writesFpsr_of_isFloat float]

/-- Settles O58: of the answers of `exec_answers`, only two are refusals. -/
theorem everyInstructionRuns : Obligations.EveryInstructionRuns := by
  intro i s
  have ha := exec_answers i s
  generalize exec i s = r at ha ⊢
  cases ha with
  | completes | transfers | addressTrap | floatTrap => exact .inl ⟨_, rfl⟩
  | unassigned ill => exact .inr (.inl ⟨ill, rfl⟩)
  | unlockMisaligned unlock lock misaligned => exact .inr (.inr ⟨_, _, unlock, lock, misaligned, rfl⟩)

/-- Settles O59: an instruction that does not set the pc completes or takes one of the two exceptions. -/
theorem pcAdvances : Obligations.PcAdvances := by
  intro i s t stays he
  cases answer_of_next he with
  | completes named => exact .inl (congrArg (· + _) named.pc)
  | transfers sets => exact absurd sets (by simp [stays])
  | addressTrap raises => exact .inr (.inl ⟨raises, raiseAe_trap s⟩)
  | floatTrap float trapped => exact .inr (.inr ⟨float, _, trapped⟩)

/-! ## Control registers -/

/-- MVFC of an assigned number writes what the control register reads as (R235). -/
theorem mvfc_runs {s : State} {cr : CrNum} {v : Word} (d : Reg) (h : s.readCr cr = some v) :
    Runs (.mvfc d cr) s (RegResult d v s) := by
  have he : exec (.mvfc d cr) s = writeNext s d v 2 := by
    show execMvfc d cr s = _
    rw [execMvfc, h]
  exact ⟨_, he, (writeNext_next rfl).1⟩

/-- MVTC to an assigned number writes the control register and moves the pc (R236). -/
theorem mvtc_runs {s u : State} {r : Reg} {cr : CrNum} {P : State → Prop}
    (h : s.writeCr cr (s.readReg r) = some u) (hP : P (u.advance 2)) : Runs (.mvtc r cr) s P := by
  refine ⟨u.advance 2, ?_, hP⟩
  show execMvtc r cr s = _
  rw [execMvtc, h]

/-- FPSR.FS is read as the summary of four flags (R50). -/
theorem fpsrWord_summary (f : Fpsr) : (fpsrWord f).getLsbD 31 = fpsrSummary f := by
  simp only [fpsrWord, BitVec.getLsbD_append]
  simp

/-- A write to the FPSR takes no notice of its bit [31] (R50). -/
theorem fpsrAfterWrite_summary (f : Fpsr) (v : Word) :
    fpsrAfterWrite f (v ^^^ 0x80000000) = fpsrAfterWrite f v := by
  have kept (i : Nat) (h : i < 31) : (v ^^^ 0x80000000).getLsbD i = v.getLsbD i := by
    interval_cases i <;> simp
  have rm : (v ^^^ 0x80000000).extractLsb' 0 2 = v.extractLsb' 0 2 := by
    apply BitVec.eq_of_getLsbD_eq
    intro i hi
    simp only [BitVec.getLsbD_extractLsb', Nat.zero_add, kept i (by omega)]
  simp (disch := decide) only [fpsrAfterWrite, kept, rm]

/-- Settles O14, by how the FPSR reads as a word and by what a write takes no notice of. -/
theorem fpSummaryBit : Obligations.FpSummaryBit := by
  intro d r v s
  obtain ⟨t, he, result⟩ := mvfc_runs d (s := s) (cr := 7) rfl
  refine ⟨⟨t, he, ?_⟩, mvtc_runs rfl (mvtc_runs rfl ?_)⟩
  · exact (congrArg (·.getLsbD 31) result.value).trans (fpsrWord_summary s.fpsr)
  · simp only [State.advance_fpsr, State.writeReg_fpsr, State.readReg_writeReg_same, fpsrAfterWrite_summary]

/-- The CBR reads as 1 or 0 (R44). -/
theorem cbrWord_eq (p : Psw) : cbrWord p = if p.c then 1 else 0 := by
  unfold cbrWord
  cases p.c <;> rfl

/-- Nothing but the pc changes when it moves. -/
theorem advance_onlyPc (s : State) (n : Word) : OnlyPc (s.pc + n) s (s.advance n) :=
  ⟨rfl, ⟨rfl, rfl, rfl⟩, by constructor <;> simp [SameMemory]⟩

/-- Settles O13: MVFC gives the bit of C, after reset too, and MVTC moves only the pc. -/
theorem conditionBitRegister : Obligations.ConditionBitRegister := by
  have reads (d : Reg) (s : State) : Runs (.mvfc d 1) s (RegResult d (if s.psw.c then 1 else 0) s) :=
    mvfc_runs d (congrArg some (cbrWord_eq s.psw))
  refine ⟨fun d r s => ⟨reads d s, mvtc_runs rfl ?_⟩, fun d => ?_⟩
  · exact ⟨(advance_onlyPc s 2).regs, (advance_onlyPc s 2).frame⟩
  · obtain ⟨t, he, result⟩ := reads d .reset
    exact ⟨t, he, result.value⟩

/-- Settles O15: R15 is banked by SM, and CR2 and CR3 name the stack pointers whatever SM is. -/
theorem stackPointers : Obligations.StackPointers := by
  intro d r v s
  refine ⟨rfl, rfl, mvfc_runs d rfl, mvfc_runs d rfl, mvtc_runs rfl ⟨rfl, rfl, rfl, ?_⟩,
    mvtc_runs rfl ⟨rfl, rfl, rfl, ?_⟩⟩
  all_goals constructor <;> simp [SameMemory]

/-- Settles O53, by the values of `State.reset`. -/
theorem resetValues : Obligations.ResetValues := ⟨rfl, rfl, rfl, by decide, rfl, rfl⟩

/-- The bytes of a word in memory are the four bytes from its address on (R92). -/
theorem bytesOfWord_readWord (m : Memory) (a : Word) :
    bytesOfWord (m.readWord a) = [m.readByte a, m.readByte (a + 1), m.readByte (a + 2), m.readByte (a + 3)] := by
  have above {n k : Nat} {x : BitVec n} {y : Byte} : (x ++ y).extractLsb' (k + 8) 8 = x.extractLsb' k 8 :=
    BitVec.extractLsb'_append_eq_of_le (Nat.le_add_left 8 k)
  have byte0 : (m.readWord a).extractLsb' 24 8 = m.readByte a :=
    (above (k := 16)).trans ((above (k := 8)).trans BitVec.extractLsb'_append_eq_left)
  have byte1 : (m.readWord a).extractLsb' 16 8 = m.readByte (a + 1) :=
    (above (k := 8)).trans ((above (k := 0)).trans BitVec.extractLsb'_append_eq_right)
  have byte2 : (m.readWord a).extractLsb' 8 8 = m.readByte (a + 2) :=
    (above (k := 0)).trans BitVec.extractLsb'_append_eq_right
  have byte3 : (m.readWord a).extractLsb' 0 8 = m.readByte (a + 3) := BitVec.extractLsb'_append_eq_right
  rw [bytesOfWord, byte0, byte1, byte2, byte3]

/-- The bytes of a halfword in memory are the two bytes from its address on (R92). -/
theorem bytesOfHalf_readHalf (m : Memory) (a : Word) :
    bytesOfHalf (m.readHalf a) = [m.readByte a, m.readByte (a + 1)] := by
  have high : (m.readHalf a).extractLsb' 8 8 = m.readByte a := BitVec.extractLsb'_append_eq_left
  have low : (m.readHalf a).extractLsb' 0 8 = m.readByte (a + 1) := BitVec.extractLsb'_append_eq_right
  rw [bytesOfHalf, high, low]

/-- The fetch gives the instruction that its bytes decode to. -/
theorem fetch_of_decodes {s : State} {i : Instr} {rest : List Byte}
    (h : decodeBytes (slotOf s.pc) s.fetchBytes = .ok (i, rest)) : s.fetch = .ok i := by
  rw [State.fetch, h]

/-- The fetch gives the reason why its bytes do not decode. -/
theorem fetch_of_error {s : State} {e : DecodeError}
    (h : decodeBytes (slotOf s.pc) s.fetchBytes = .error e) : s.fetch = .error e := by
  rw [State.fetch, h]

/-- Settles O54: the step is what the fetch decodes to; the bytes are the word that the bus gives, which from
RAM and ROM are those of memory at the pc. -/
theorem stepRunsDecoded : Obligations.StepRunsDecoded := by
  intro s even quiet declined u byte base
  have runs : step s = match u.fetch with
      | .ok i => exec i u.afterFetch
      | .error e => .refused (refusalOf e) := step_runs even quiet declined
  have refuses (e : DecodeError) (h : decodeBytes (slotOf s.pc) u.fetchBytes = .error e) :
      step s = .refused (refusalOf e) := by
    rw [runs, fetch_of_error (s := u) h]
  refine ⟨⟨u.fetchedWord, fetchedWord_reads u, ?_⟩, ?_, ?_, refuses _, refuses _, refuses _⟩
  · simp only [State.fetchBytes, wordAligned_iff]
    rfl
  · intro stored
    have hold : (u.holding (wordBase u.pc)).stored = true := by
      rcases stored with h | h <;> exact congrArg Holding.stored h
    rw [fetchBytes_memory u even hold, bytesOfWord_readWord, bytesOfHalf_readHalf]
  · intro i rest h
    rw [runs, fetch_of_decodes (s := u) h]
    exact congrArg (exec i) (afterRead_eq ..)

end Sys2Proof.Machine
end

section
/-! PROOFS of the statements about memory (spec/20_memory.md). Every access of a word or a halfword goes
through `onWordAddress` or `onHalfAddress`, which leave a misaligned one no effect but the address exception. -/

namespace Sys2Proof.Machine

/-! ## Misaligned accesses -/

/-- An instruction whose only access is to a misaligned word takes the address exception (R94, R224). -/
theorem runs_addressTrap_of_word {i : Instr} {s u : State} {ea : Word} (he : exec i s = onWordAddress s ea u)
    (h : ea.toNat % 4 ≠ 0) : Runs i s (AddressTrap s) :=
  ⟨s.raiseAe, he.trans (onWordAddress_misaligned h), raiseAe_trap s⟩

/-- An instruction whose only access is to a misaligned halfword takes the address exception (R94, R224). -/
theorem runs_addressTrap_of_half {i : Instr} {s u : State} {ea : Word} (he : exec i s = onHalfAddress s ea u)
    (h : ea.toNat % 2 ≠ 0) : Runs i s (AddressTrap s) :=
  ⟨s.raiseAe, he.trans (onHalfAddress_misaligned h), raiseAe_trap s⟩

/-- UNLOCK makes its access while the LOCK bit is 1 (R222). -/
theorem exec_unlock_locked {s : State} (a b : Reg) (locked : s.lock = true) :
    exec (.unlock a b) s = onWordAddress s (s.eaInd b)
      (((s.storeWord (s.eaInd b) (s.readReg a)).setLock false).advance 2) := if_pos locked

/-- Settles O34: by its meaning each form makes one access, at the address that its operands give. -/
theorem misalignedTraps : Obligations.MisalignedTraps := by
  intro d r disp s ea ea'
  refine ⟨fun word => ?indirectWord, fun word => ?displacedWord, fun word => ?preIncrement,
    fun word => ?preDecrement, fun half => ?indirectHalf, fun half => ?displacedHalf⟩
  case indirectWord =>
    have unlock (locked : s.lock = true) : Runs (.unlock d r) s (AddressTrap s) :=
      runs_addressTrap_of_word (exec_unlock_locked d r locked) word
    exact ⟨runs_addressTrap_of_word rfl word, runs_addressTrap_of_word rfl word,
      runs_addressTrap_of_word rfl word, runs_addressTrap_of_word rfl word, unlock⟩
  case displacedWord => exact ⟨runs_addressTrap_of_word rfl word, runs_addressTrap_of_word rfl word⟩
  case preIncrement | preDecrement => exact runs_addressTrap_of_word rfl word
  case indirectHalf =>
    exact ⟨runs_addressTrap_of_half rfl half, runs_addressTrap_of_half rfl half,
      runs_addressTrap_of_half rfl half, runs_addressTrap_of_half rfl half⟩
  case displacedHalf =>
    exact ⟨runs_addressTrap_of_half rfl half, runs_addressTrap_of_half rfl half,
      runs_addressTrap_of_half rfl half⟩

end Sys2Proof.Machine
end

section
/-! PROOFS of the statements about the encoding (spec/30_encoding.md). Both ways between codes and instructions
follow the opcode map: a decoder row reads the positions that the encoder joined, and an entry of a row writes
back the positions that selected it. -/

namespace Sys2Proof.Machine

open Laws

/-! ## Fields and positions -/

/-- The value that selects an entry of a row is the position itself. -/
theorem position_of_toNat {x : BitVec 4} {n : Nat} (h : x.toNat = n) : x = .ofNat 4 n :=
  (BitVec.toNat_eq_nat.1 h).2

@[simp] theorem highNibble_append (a b : BitVec 4) : highNibble (a ++ b) = a :=
  BitVec.extractLsb'_append_eq_left

@[simp] theorem lowNibble_append (a b : BitVec 4) : lowNibble (a ++ b) = b :=
  BitVec.extractLsb'_append_eq_right

/-- A byte form's constant is its last two positions (R132). -/
theorem byteCode_append (op1 r1 op2 r2 : BitVec 4) : byteCode op1 r1 (op2 ++ r2) = joinHalf op1 r1 op2 r2 := by
  rw [byteCode, highNibble_append, lowNibble_append]

/-- A 24-bit constant is two positions and the low-order halfword (R133). -/
theorem constant24_eq (c : BitVec 24) :
    c.extractLsb' 20 4 ++ c.extractLsb' 16 4 ++ c.extractLsb' 0 16 = c := by
  simp (disch := decide) only [BitVec.extractLsb'_append_extractLsb'_eq_extractLsb']
  exact BitVec.extractLsb'_eq_self

/-- The two positions and the low-order halfword of a long form are its constant (R133). -/
theorem longCode_append (op1 r1 op2 r2 : BitVec 4) (c : Half) :
    longCode op1 r1 (op2 ++ r2 ++ c) = joinWord op1 r1 op2 r2 c := by
  have first : (op2 ++ r2 ++ c).extractLsb' 20 4 = op2 :=
    (BitVec.extractLsb'_append_eq_of_le (by decide)).trans BitVec.extractLsb'_append_eq_left
  have second : (op2 ++ r2 ++ c).extractLsb' 16 4 = r2 :=
    (BitVec.extractLsb'_append_eq_of_le (by decide)).trans BitVec.extractLsb'_append_eq_right
  rw [longCode, first, second, BitVec.extractLsb'_append_eq_right]

/-- A 5-bit count is b11 and b12-b15 (R132). -/
theorem count_eq (c : BitVec 5) : c.extractLsb' 4 1 ++ c.extractLsb' 0 4 = c := by
  rw [BitVec.extractLsb'_append_extractLsb'_eq_extractLsb' (by rfl)]
  exact BitVec.extractLsb'_eq_self

/-- The first bit of an immediate shift's count is b11, the others are b12-b15 (R132). -/
theorem shiftCode_append (d : Reg) (op : BitVec 3) (b : BitVec 1) (r2 : BitVec 4) :
    shiftCode d op (b ++ r2) = joinHalf 0x5 (numberField d) (op ++ b) r2 := by
  rw [shiftCode, BitVec.extractLsb'_append_eq_left, BitVec.extractLsb'_append_eq_right]

/-- The first bit of a bit position field is 0 (R144). -/
theorem bitField_msb : ∀ t : BitVec 3, (bitField t).msb = false := by decide

@[simp] theorem bitField_extract (t : BitVec 3) : (bitField t).extractLsb' 0 3 = t :=
  BitVec.extractLsb'_append_eq_right

/-- A position whose first bit is 0 is a bit position field (R144). -/
theorem bitField_of_msb : ∀ x : BitVec 4, x.msb = false → bitField (x.extractLsb' 0 3) = x := by decide

/-- Joining undoes splitting. -/
theorem joinHalf_splitHalf (h : Half) :
    joinHalf (splitHalf h).op1 (splitHalf h).r1 (splitHalf h).op2 (splitHalf h).r2 = h := by
  simp (disch := decide) only [joinHalf, splitHalf, BitVec.extractLsb'_append_extractLsb'_eq_extractLsb']
  exact BitVec.extractLsb'_eq_self

/-- A halfword is joined from four positions. -/
theorem exists_joinHalf (h : Half) : ∃ op1 r1 op2 r2, h = joinHalf op1 r1 op2 r2 :=
  ⟨_, _, _, _, (joinHalf_splitHalf h).symm⟩

/-- A word is joined from four positions and a low-order halfword. -/
theorem exists_joinWord (w : Word) : ∃ op1 r1 op2 r2 c, w = joinWord op1 r1 op2 r2 c := by
  obtain ⟨op1, r1, op2, r2, high⟩ := exists_joinHalf (highHalf w)
  refine ⟨op1, r1, op2, r2, lowHalf w, ?_⟩
  rw [joinWord, ← high, highHalf, lowHalf, BitVec.extractLsb'_append_extractLsb'_eq_extractLsb' (by rfl)]
  exact BitVec.extractLsb'_eq_self.symm

/-- The two bytes of a halfword make it up again (R93). -/
theorem halfOfBytes_bytes (h : Half) : halfOfBytes (h.extractLsb' 8 8) (h.extractLsb' 0 8) = h := by
  rw [halfOfBytes, BitVec.extractLsb'_append_extractLsb'_eq_extractLsb' (by rfl)]
  exact BitVec.extractLsb'_eq_self

/-- The four bytes of a word make it up again (R93). -/
theorem wordOfBytes_bytes (w : Word) :
    wordOfBytes (w.extractLsb' 24 8) (w.extractLsb' 16 8) (w.extractLsb' 8 8) (w.extractLsb' 0 8) = w := by
  simp (disch := decide) only [wordOfBytes, BitVec.extractLsb'_append_extractLsb'_eq_extractLsb']
  exact BitVec.extractLsb'_eq_self

/-- The first bit of a halfword is that of its first byte. -/
theorem firstByte_msb_half (h : Half) : (h.extractLsb' 8 8).msb = h.msb := by
  simp [BitVec.msb_eq_getLsbD_last]

/-- The first bit of a word is that of its first byte. -/
theorem firstByte_msb_word (w : Word) : (w.extractLsb' 24 8).msb = w.msb := by
  simp [BitVec.msb_eq_getLsbD_last]

/-! ## What the decoder reads from each form of code -/

theorem decodeHalf_joinHalf (op1 r1 op2 r2 : BitVec 4) :
    decodeHalf (joinHalf op1 r1 op2 r2) = decodeNibbles ⟨op1, r1, op2, r2⟩ := by
  rw [decodeHalf, splitHalf_joinHalf]

theorem decodeWord_joinWord (op1 r1 op2 r2 : BitVec 4) (c : Half) :
    decodeWord (joinWord op1 r1 op2 r2 c) = decodeWide ⟨op1, r1, op2, r2⟩ c := by
  rw [decodeWord, highHalf_joinWord, lowHalf_joinWord, splitHalf_joinHalf]

/-- Row 0111 reads the constant of a byte form. -/
theorem decodeHalf_byteCode (r1 : BitVec 4) (c : BitVec 8) :
    decodeHalf (byteCode 0x7 r1 c) = decodeRow7 r1 c := by
  rw [byteCode, decodeHalf_joinHalf]
  exact congrArg (decodeRow7 r1) (highNibble_append_lowNibble c)

/-- Row 1111 reads the constant of a long form. -/
theorem decodeWord_longCode (r1 : BitVec 4) (c : BitVec 24) :
    decodeWord (longCode 0xF r1 c) = decodeRowF r1 c := by
  rw [longCode, decodeWord_joinWord]
  exact congrArg (decodeRowF r1) (constant24_eq c)

/-- Row 1101 reads the positions of a floating-point form (R134). -/
theorem decodeWord_floatCode (rs1 rs2 op3 rd op4 : BitVec 4) :
    decodeWord (floatCode rs1 rs2 op3 rd op4) = decodeFloat rs1 rs2 ⟨op3, rd, op4, 0⟩ := by
  rw [floatCode, decodeWord_joinWord, ← splitHalf_joinHalf op3]
  rfl

theorem decodeHalf_addi (d : Reg) (c : BitVec 8) :
    decodeHalf (byteCode 0x4 (numberField d) c) = .ok (.addi d c) := by
  rw [byteCode, decodeHalf_joinHalf]
  exact congrArg (fun c => Except.ok (Instr.addi d c)) (highNibble_append_lowNibble c)

theorem decodeHalf_ldi8 (d : Reg) (c : BitVec 8) :
    decodeHalf (byteCode 0x6 (numberField d) c) = .ok (.ldi8 d c) := by
  rw [byteCode, decodeHalf_joinHalf]
  exact congrArg (fun c => Except.ok (Instr.ldi8 d c)) (highNibble_append_lowNibble c)

theorem decodeWord_ld24 (d : Reg) (c : BitVec 24) :
    decodeWord (longCode 0xE (numberField d) c) = .ok (.ld24 d c) := by
  rw [longCode, decodeWord_joinWord]
  exact congrArg (fun c => Except.ok (Instr.ld24 d c)) (constant24_eq c)

/-- The three immediate shifts, whichever bit b11 is: it is the first of the count (R132). -/
theorem decodeHalf_shiftCode (d : Reg) (c : BitVec 5) :
    decodeHalf (shiftCode d 0 c) = .ok (.srli d c) ∧ decodeHalf (shiftCode d 1 c) = .ok (.srai d c) ∧
      decodeHalf (shiftCode d 2 c) = .ok (.slli d c) := by
  rw [← count_eq c]
  generalize c.extractLsb' 4 1 = b, c.extractLsb' 0 4 = r2
  have row (op2 : BitVec 4) :
      decodeNibbles ⟨5, numberField d, op2, r2⟩ = decodeRow5 (numberField d) op2 r2 := rfl
  simp only [shiftCode_append, decodeHalf_joinHalf, row]
  rcases BitVec.eq_zero_or_eq_one b with rfl | rfl <;> exact ⟨rfl, rfl, rfl⟩

/-- A bit position field is read back where its first bit 0 is asked for (R144). -/
theorem decoded_bitField (t : BitVec 3) (f : BitVec 3 → Instr) :
    (if (bitField t).msb then undefinedCode else .ok (f ((bitField t).extractLsb' 0 3))) = .ok (f t) := by
  rw [bitField_msb, bitField_extract]
  rfl

/-- The decoder gives back every well-formed instruction from its code. -/
theorem decodeCode_encode {i : Instr} (wf : i.wellFormed = true) : decodeCode (encode i) = .ok i := by
  cases i with
  | addi d imm => exact decodeHalf_addi d imm
  | ldi8 d imm => exact decodeHalf_ldi8 d imm
  | ld24 d imm => exact decodeWord_ld24 d imm
  | srli d imm | srai d imm | slli d imm =>
    obtain ⟨srli, srai, slli⟩ := decodeHalf_shiftCode d imm
    assumption
  | bc8 | bl8 | bnc8 | bra8 | setpsw | clrpsw => exact decodeHalf_byteCode ..
  | bc24 | bl24 | bnc24 | bra24 => exact decodeWord_longCode ..
  | mvfc | mvtc => exact (decodeHalf_joinHalf ..).trans (if_pos wf)
  | btst t s => exact (decodeHalf_joinHalf ..).trans (decoded_bitField t (.btst · s))
  | bset t disp s => exact (decodeWord_joinWord ..).trans (decoded_bitField t (.bset · disp s))
  | bclr t disp s => exact (decodeWord_joinWord ..).trans (decoded_bitField t (.bclr · disp s))
  | fadd | fsub | fmul | fdiv | fmadd | fmsub | itof | utof | ftoi | ftos | fcmp | fcmpe =>
    exact decodeWord_floatCode ..
  | ldDisp | ldbDisp | ldubDisp | ldhDisp | lduhDisp | stDisp | stbDisp | sthDisp | ldi16 | seth | cmpi | cmpui
  | add3 | addv3 | and3 | or3 | xor3 | div | divu | rem | remu | sll3 | sra3 | srl3 | beq | bne | beqz | bnez
  | bltz | bgez | blez | bgtz => exact decodeWord_joinWord ..
  | _ => exact decodeHalf_joinHalf ..

/-! ## The bytes of a code -/

/-- A halfword that decodes has its first bit 0 (R131): the rows from 1000 on have no 16-bit instruction. -/
theorem msb_of_decodeHalf {h : Half} {i : Instr} (hi : decodeHalf h = .ok i) : h.msb = false := by
  obtain ⟨op1, r1, op2, r2, rfl⟩ := exists_joinHalf h
  rw [decodeHalf_joinHalf, decodeNibbles] at hi
  rw [joinHalf_msb, BitVec.msb_eq_decide]
  split at hi
  case h_9 => cases hi
  all_goals simp [*]

/-- A word that decodes has its first bit 1 (R131): the rows up to 0111 have no 32-bit instruction. -/
theorem msb_of_decodeWord {w : Word} {i : Instr} (hi : decodeWord w = .ok i) : w.msb = true := by
  obtain ⟨op1, r1, op2, r2, c, rfl⟩ := exists_joinWord w
  rw [decodeWord_joinWord, decodeWide] at hi
  rw [joinWord_msb, BitVec.msb_eq_decide]
  split at hi
  case h_8 => cases hi
  all_goals simp [*]

/-- A halfword's bytes decode in either slot to what the halfword decodes to (R131). -/
theorem decodeBytes_bytesOfHalf {h : Half} {i : Instr} (slot : Slot) (rest : List Byte)
    (hi : decodeHalf h = .ok i) : decodeBytes slot (bytesOfHalf h ++ rest) = .ok (i, rest) := by
  have narrow := msb_of_decodeHalf hi
  cases slot with
  | high =>
    show (if (h.extractLsb' 8 8).msb then _ else withRest rest (decodeHalf (halfOfBytes _ _))) = _
    rw [firstByte_msb_half, narrow, halfOfBytes_bytes, hi]
    rfl
  | low =>
    show withRest rest (decodeLowSlot (halfOfBytes _ _)) = _
    rw [halfOfBytes_bytes, decodeLowSlot, narrow, hi]
    rfl

/-- A word's bytes decode at a word-aligned address to what the word decodes to (R131). -/
theorem decodeBytes_bytesOfWord {w : Word} {i : Instr} (rest : List Byte) (hi : decodeWord w = .ok i) :
    decodeBytes .high (bytesOfWord w ++ rest) = .ok (i, rest) := by
  show (if (w.extractLsb' 24 8).msb then withRest rest (decodeWord (wordOfBytes _ _ _ _)) else _) = _
  rw [firstByte_msb_word, msb_of_decodeWord hi, wordOfBytes_bytes, hi]
  rfl

/-- The bytes of a code decode at a word-aligned address to what the code decodes to (R131). -/
theorem decodeBytes_bytes {c : Code} {i : Instr} (rest : List Byte) (hi : decodeCode c = .ok i) :
    decodeBytes .high (c.bytes ++ rest) = .ok (i, rest) := by
  cases c with
  | half h => exact decodeBytes_bytesOfHalf .high rest hi
  | word w => exact decodeBytes_bytesOfWord rest hi

/-- Settles O48: the code decodes, and so its bytes do. -/
theorem decodeOfEncode : Obligations.DecodeOfEncode := by
  intro i rest wf
  have decodes : decodeCode (encode i) = .ok i := decodeCode_encode wf
  refine ⟨decodes, decodeBytes_bytes rest decodes, fun h hh => ?_⟩
  rw [hh] at decodes ⊢
  exact decodeBytes_bytesOfHalf .low rest decodes

/-! ## What the entries of the opcode map write back

One lemma a row of R150. An entry is selected by positions of the code and may check others; the code of the
instruction that it gives has the selecting positions at their values, what passed the check, and the fields. -/

/-- The instruction is well formed and has this code. -/
abbrev WritesBack (i : Instr) (c : Code) : Prop := encode i = c ∧ i.wellFormed = true

/-- An entry with a check decodes only what passes it (R57, R161). -/
theorem check_of_ok {p : Prop} [Decidable p] {e : DecodeError} {j i : Instr}
    (hi : (if p then .ok j else .error e : Decoded) = .ok i) : p ∧ j = i := by
  split at hi <;> cases hi
  next passed => exact ⟨passed, rfl⟩

/-- An entry with a bit position decodes only a position whose first bit is 0 (R144). -/
theorem bitField_of_ok {x : BitVec 4} {j i : Instr} (hi : (if x.msb then undefinedCode else .ok j) = .ok i) :
    bitField (x.extractLsb' 0 3) = x ∧ j = i := by
  split at hi <;> cases hi
  next msb => exact ⟨bitField_of_msb x (Bool.eq_false_of_not_eq_true msb), rfl⟩

section Rows

variable {i : Instr} {r1 op2 r2 : BitVec 4} {c : Half}

theorem decodeRow0_writesBack (hi : decodeRow0 r1 op2 r2 = .ok i) :
    WritesBack i (.half (joinHalf 0x0 r1 op2 r2)) := by
  dsimp only [decodeRow0] at hi
  split at hi
  case h_15 => cases hi
  all_goals obtain rfl := position_of_toNat ‹op2.toNat = _›
  case h_14 =>
    obtain ⟨field, rfl⟩ := bitField_of_ok hi
    exact ⟨congrArg (fun r1 => Code.half (joinHalf 0x0 r1 0xF r2)) field, rfl⟩
  all_goals
    cases hi
    exact ⟨rfl, rfl⟩

theorem decodeRow1_writesBack (hi : decodeRow1 r1 op2 r2 = .ok i) :
    WritesBack i (.half (joinHalf 0x1 r1 op2 r2)) := by
  dsimp only [decodeRow1] at hi
  split at hi
  case h_11 => cases hi
  all_goals obtain rfl := position_of_toNat ‹op2.toNat = _›
  case h_6 | h_7 =>
    obtain ⟨assigned, rfl⟩ := check_of_ok hi
    exact ⟨rfl, assigned⟩
  case h_8 =>
    split at hi <;> cases hi
    all_goals
      obtain rfl := position_of_toNat ‹r1.toNat = _›
      exact ⟨rfl, rfl⟩
  case h_9 =>
    obtain ⟨⟨rfl, rfl⟩, rfl⟩ := check_of_ok hi
    exact ⟨rfl, rfl⟩
  case h_10 =>
    obtain ⟨rfl, rfl⟩ := check_of_ok hi
    exact ⟨rfl, rfl⟩
  all_goals
    cases hi
    exact ⟨rfl, rfl⟩

theorem decodeRow2_writesBack (hi : decodeRow2 r1 op2 r2 = .ok i) :
    WritesBack i (.half (joinHalf 0x2 r1 op2 r2)) := by
  unfold decodeRow2 at hi
  split at hi <;> cases hi
  all_goals
    obtain rfl := position_of_toNat ‹op2.toNat = _›
    exact ⟨rfl, rfl⟩

theorem decodeRow3_writesBack (hi : decodeRow3 r1 op2 r2 = .ok i) :
    WritesBack i (.half (joinHalf 0x3 r1 op2 r2)) := by
  unfold decodeRow3 at hi
  split at hi <;> cases hi
  all_goals
    obtain rfl := position_of_toNat ‹op2.toNat = _›
    exact ⟨rfl, rfl⟩

theorem decodeRow5_writesBack (hi : decodeRow5 r1 op2 r2 = .ok i) :
    WritesBack i (.half (joinHalf 0x5 r1 op2 r2)) := by
  dsimp only [decodeRow5] at hi
  split at hi
  case h_11 => cases hi
  all_goals obtain rfl := position_of_toNat ‹op2.toNat = _›
  case h_7 | h_10 =>
    split at hi <;> cases hi
    all_goals
      obtain rfl := position_of_toNat ‹r2.toNat = _›
      exact ⟨rfl, rfl⟩
  case h_8 | h_9 =>
    obtain ⟨⟨rfl, rfl⟩, rfl⟩ := check_of_ok hi
    exact ⟨rfl, rfl⟩
  all_goals
    cases hi
    exact ⟨congrArg Code.half (shiftCode_append ..), rfl⟩

theorem decodeRow7_writesBack {c : BitVec 8} (hi : decodeRow7 r1 c = .ok i) :
    WritesBack i (.half (byteCode 0x7 r1 c)) := by
  unfold decodeRow7 at hi
  split at hi
  case h_8 => cases hi
  all_goals obtain rfl := position_of_toNat ‹r1.toNat = _›
  case h_1 =>
    obtain ⟨rfl, rfl⟩ := check_of_ok hi
    exact ⟨rfl, rfl⟩
  all_goals
    cases hi
    exact ⟨rfl, rfl⟩

theorem decodeRow8_writesBack (hi : decodeRow8 r1 op2 r2 c = .ok i) :
    WritesBack i (.word (joinWord 0x8 r1 op2 r2 c)) := by
  dsimp only [decodeRow8] at hi
  split at hi
  case h_8 => cases hi
  all_goals obtain rfl := position_of_toNat ‹op2.toNat = _›
  case h_1 | h_2 =>
    obtain ⟨rfl, rfl⟩ := check_of_ok hi
    exact ⟨rfl, rfl⟩
  all_goals
    cases hi
    exact ⟨rfl, rfl⟩

theorem decodeRow9_writesBack (hi : decodeRow9 r1 op2 r2 c = .ok i) :
    WritesBack i (.word (joinWord 0x9 r1 op2 r2 c)) := by
  dsimp only [decodeRow9] at hi
  split at hi
  case h_9 => cases hi
  all_goals obtain rfl := position_of_toNat ‹op2.toNat = _›
  case h_1 | h_2 | h_3 | h_4 | h_8 =>
    obtain ⟨rfl, rfl⟩ := check_of_ok hi
    exact ⟨rfl, rfl⟩
  all_goals
    cases hi
    exact ⟨rfl, rfl⟩

theorem decodeRowA_writesBack (hi : decodeRowA r1 op2 r2 c = .ok i) :
    WritesBack i (.word (joinWord 0xA r1 op2 r2 c)) := by
  dsimp only [decodeRowA] at hi
  split at hi
  case h_11 => cases hi
  all_goals obtain rfl := position_of_toNat ‹op2.toNat = _›
  case h_4 | h_5 =>
    obtain ⟨field, rfl⟩ := bitField_of_ok hi
    exact ⟨congrArg (fun r1 => Code.word (joinWord 0xA r1 _ r2 c)) field, rfl⟩
  all_goals
    cases hi
    exact ⟨rfl, rfl⟩

theorem decodeRowB_writesBack (hi : decodeRowB r1 op2 r2 c = .ok i) :
    WritesBack i (.word (joinWord 0xB r1 op2 r2 c)) := by
  dsimp only [decodeRowB] at hi
  split at hi
  case h_9 => cases hi
  all_goals obtain rfl := position_of_toNat ‹op2.toNat = _›
  case h_1 | h_2 =>
    cases hi
    exact ⟨rfl, rfl⟩
  all_goals
    obtain ⟨rfl, rfl⟩ := check_of_ok hi
    exact ⟨rfl, rfl⟩

theorem decodeFloat_writesBack {op3 d op4 fixed : BitVec 4}
    (hi : decodeFloat r1 r2 ⟨op3, d, op4, fixed⟩ = .ok i) :
    WritesBack i (.word (joinWord 0xD r1 0 r2 (joinHalf op3 d op4 fixed))) := by
  dsimp only [decodeFloat] at hi
  split at hi
  case isFalse => cases hi
  case isTrue zero =>
    subst zero
    split at hi
    case h_6 => cases hi
    all_goals obtain rfl := position_of_toNat ‹op3.toNat = _›
    case h_1 | h_4 =>
      split at hi <;> cases hi
      all_goals
        obtain rfl := position_of_toNat ‹op4.toNat = _›
        exact ⟨rfl, rfl⟩
    case h_2 | h_3 =>
      obtain ⟨rfl, rfl⟩ := check_of_ok hi
      exact ⟨rfl, rfl⟩
    case h_5 =>
      split at hi
      case isFalse => cases hi
      case isTrue zero =>
        subst zero
        split at hi <;> cases hi
        all_goals
          obtain rfl := position_of_toNat ‹op4.toNat = _›
          exact ⟨rfl, rfl⟩

theorem decodeRowD_writesBack (hi : decodeRowD r1 op2 r2 c = .ok i) :
    WritesBack i (.word (joinWord 0xD r1 op2 r2 c)) := by
  unfold decodeRowD at hi
  split at hi
  case h_3 => cases hi
  all_goals obtain rfl := position_of_toNat ‹op2.toNat = _›
  case h_1 =>
    rw [← joinHalf_splitHalf c]
    exact decodeFloat_writesBack hi
  case h_2 =>
    obtain ⟨rfl, rfl⟩ := check_of_ok hi
    exact ⟨rfl, rfl⟩

theorem decodeRowF_writesBack {c : BitVec 24} (hi : decodeRowF r1 c = .ok i) :
    WritesBack i (.word (longCode 0xF r1 c)) := by
  unfold decodeRowF at hi
  split at hi <;> cases hi
  all_goals
    obtain rfl := position_of_toNat ‹r1.toNat = _›
    exact ⟨rfl, rfl⟩

end Rows

theorem decodeHalf_writesBack {h : Half} {i : Instr} (hi : decodeHalf h = .ok i) : WritesBack i (.half h) := by
  obtain ⟨op1, r1, op2, r2, rfl⟩ := exists_joinHalf h
  rw [decodeHalf_joinHalf] at hi
  dsimp only [decodeNibbles] at hi
  split at hi
  case h_9 => cases hi
  all_goals obtain rfl := position_of_toNat ‹op1.toNat = _›
  case h_1 => exact decodeRow0_writesBack hi
  case h_2 => exact decodeRow1_writesBack hi
  case h_3 => exact decodeRow2_writesBack hi
  case h_4 => exact decodeRow3_writesBack hi
  case h_6 => exact decodeRow5_writesBack hi
  case h_8 => exact byteCode_append 0x7 r1 op2 r2 ▸ decodeRow7_writesBack hi
  case h_5 | h_7 =>
    cases hi
    exact ⟨congrArg Code.half (byteCode_append ..), rfl⟩

theorem decodeWord_writesBack {w : Word} {i : Instr} (hi : decodeWord w = .ok i) : WritesBack i (.word w) := by
  obtain ⟨op1, r1, op2, r2, c, rfl⟩ := exists_joinWord w
  rw [decodeWord_joinWord] at hi
  dsimp only [decodeWide] at hi
  split at hi
  case h_8 => cases hi
  all_goals obtain rfl := position_of_toNat ‹op1.toNat = _›
  case h_1 => exact decodeRow8_writesBack hi
  case h_2 => exact decodeRow9_writesBack hi
  case h_3 => exact decodeRowA_writesBack hi
  case h_4 => exact decodeRowB_writesBack hi
  case h_5 => exact decodeRowD_writesBack hi
  case h_6 =>
    cases hi
    exact ⟨congrArg Code.word (longCode_append ..), rfl⟩
  case h_7 => exact longCode_append 0xF r1 op2 r2 c ▸ decodeRowF_writesBack hi

/-- Settles O49: what a halfword or a word decodes to writes it back. -/
theorem encodeOfDecode : Obligations.EncodeOfDecode := by
  intro c i hi
  cases c with
  | half h => exact decodeHalf_writesBack hi
  | word w => exact decodeWord_writesBack hi

/-! ## Single codes -/

/-- Settles O20: NOP's entry of row 0111 is the one with a fixed constant (R151). -/
theorem noOperation : Obligations.NoOperation := by
  refine ⟨⟨rfl, decodeCode_encode (i := .nop) rfl⟩, rfl, fun c i nonzero hi => ?_,
    fun s => ⟨_, rfl, advance_onlyPc s 2⟩⟩
  have row : decodeCode (.half ((0x70 : BitVec 8) ++ c)) = decodeRow7 0x0 c :=
    (congrArg decodeHalf (byteCode_eq 0x7 0x0 c).symm).trans (decodeHalf_byteCode 0x0 c)
  exact nonzero (check_of_ok (row.symm.trans hi)).1

/-- Settles O50, by running the decoder on the sixteen words. -/
theorem sampleWords : Obligations.SampleWords := by
  unfold Obligations.SampleWords
  decide

end Sys2Proof.Machine
end

section
/-! PROOFS of the statements about loads and stores (spec/40_load_store.md). Every instruction of the family is
one access, at the address that its operands give, and then the moves of a register, the LOCK bit and the pc.
Each kind of access is described once, and each instruction is settled by which access its meaning makes. -/

namespace Sys2Proof.Machine

/-- A well-formed instruction has the code that the encoder writes. -/
theorem hasCode_of_encode {i : Instr} {c : Code} (wf : i.wellFormed = true) (he : encode i = c) : HasCode i c :=
  ⟨he, he ▸ decodeCode_encode wf⟩

/-- An instruction that runs with one outcome runs with every weaker one. -/
theorem Runs.imp {i : Instr} {s : State} {P Q : State → Prop} (h : Runs i s P) (weaker : ∀ t, P t → Q t) :
    Runs i s Q :=
  let ⟨t, he, hP⟩ := h
  ⟨t, he, weaker t hP⟩

/-! ## What an operation leaves unchanged -/

namespace Frame

variable {written more : List Piece} {s t u : State}

/-- A frame holds with more pieces written. -/
theorem mono (h : Frame written s t) (sub : written ⊆ more) : Frame more s t where
  psw n := h.psw fun m => n (sub m)
  fpsr n := h.fpsr fun m => n (sub m)
  bpc n := h.bpc fun m => n (sub m)
  acc n := h.acc fun m => n (sub m)
  lock n := h.lock fun m => n (sub m)
  mem n := h.mem fun m => n (sub m)
  device n := h.device fun m => n (sub m)
  vectors := h.vectors
  memMap := h.memMap
  inputs := h.inputs
  drawIndex := h.drawIndex

/-- No frame looks at the pc. -/
theorem advance (h : Frame written s t) (n : Word) : Frame written s (t.advance n) := { h with }

/-- No frame looks at the registers. -/
theorem writeReg (h : Frame written s t) (d : Reg) (v : Word) : Frame written s (t.writeReg d v) where
  psw n := (t.writeReg_psw d v).trans (h.psw n)
  fpsr n := (t.writeReg_fpsr d v).trans (h.fpsr n)
  bpc n := (t.writeReg_bpc d v).trans (h.bpc n)
  acc n := (t.writeReg_acc d v).trans (h.acc n)
  lock n := (t.writeReg_lock d v).trans (h.lock n)
  mem n a := (congrArg (·.readByte a) (t.writeReg_mem d v)).trans (h.mem n a)
  device n := (t.writeReg_device d v).trans (h.device n)
  vectors := (t.writeReg_vectors d v).trans h.vectors
  memMap := (t.writeReg_memMap d v).trans h.memMap
  inputs := (t.writeReg_inputs d v).trans h.inputs
  drawIndex := (t.writeReg_drawIndex d v).trans h.drawIndex

/-- A frame that lists the LOCK bit leaves it open. -/
theorem setLock (h : Frame written s t) (b : Bool) (hl : Piece.lock ∈ written) :
    Frame written s (t.setLock b) :=
  { h with lock := fun n => absurd hl n }

end Frame

/-- A read changes no register. -/
theorem regsKept_afterRead (s : State) (a : Word) (n : Access) : RegsKept s (s.afterRead a n) := by
  constructor <;> simp

/-- A read changes only the devices. -/
theorem frame_afterRead (s : State) (a : Word) (n : Access) : Frame [.device] s (s.afterRead a n) := by
  constructor <;> simp [SameMemory]

/-- A write to memory changes no register. -/
theorem regsKept_writeAs (s : State) (a : Word) (n : Access) (v : Word) (m : Memory) :
    RegsKept s (s.writeAs a n v m) := by
  constructor <;> simp

/-- A write to memory changes only memory and the devices. -/
theorem frame_writeAs (s : State) (a : Word) (n : Access) (v : Word) (m : Memory) :
    Frame [.mem, .device] s (s.writeAs a n v m) := by
  constructor <;> simp

/-- After an operation that keeps every register and the stack mode, the registers that change are those
written next. -/
theorem RegsKept.onlyRegs {ds : List Reg} {s t u : State} (kept : RegsKept s t) (mode : t.psw = s.psw)
    (only : OnlyRegs ds t u) : OnlyRegs ds s u where
  others r hr :=
    (only.others r hr).trans (State.readReg_congr kept.gprs kept.spi kept.spu (congrArg Psw.sm mode) r)
  spi hr := (only.spi (mode ▸ hr)).trans kept.spi
  spu hr := (only.spu (mode ▸ hr)).trans kept.spu

/-- Setting the LOCK bit and writing a register may be done in either order. -/
theorem State.setLock_writeReg (s : State) (b : Bool) (r : Reg) (v : Word) :
    (s.setLock b).writeReg r v = (s.writeReg r v).setLock b := by
  unfold State.writeReg
  split
  · rfl
  · rw [State.setLock_psw]
    cases s.psw.sm <;> rfl

/-! ## Loads -/

section Loads

variable {i : Instr} {s : State} {d : Reg} {ea len : Word}

/-- An instruction that loads a word, at an aligned address. -/
theorem runs_loadWord (he : exec i s = loadWord s d ea len) (aligned : ea.toNat % 4 = 0) :
    Runs i s (LoadResult d id ea .word (s.mem.readWord ea) [] s) :=
  ⟨_, he.trans (onWordAddress_aligned aligned), loadResult_writeReg ..⟩

/-- An instruction that loads a halfword, at an aligned address. -/
theorem runs_loadHalf {ext : Half → Word} (he : exec i s = loadHalf s ext d ea len)
    (aligned : ea.toNat % 2 = 0) : Runs i s (LoadResult d ext ea .half (s.mem.readHalf ea) [] s) :=
  ⟨_, he.trans (onHalfAddress_aligned aligned), loadResult_writeReg ..⟩

/-- An instruction that loads a byte. -/
theorem runs_loadByte {ext : Byte → Word} (he : exec i s = loadByte s ext d ea len) :
    Runs i s (LoadResult d ext ea .byte (s.mem.readByte ea) [] s) :=
  ⟨_, he, loadResult_writeReg ..⟩

/-- A load that then sets the LOCK bit. -/
theorem LoadResult.setLock {w : Nat} {ext : BitVec w → Word} {n : Access} {stored : BitVec w} {t : State}
    (h : LoadResult d ext ea n stored [] s t) (b : Bool) :
    LoadResult d ext ea n stored [.lock] s (t.setLock b) where
  value := h.value
  device := h.device
  regs := h.regs.congr rfl rfl rfl rfl
  frame := (h.frame.mono (by simp)).setLock b (by simp)

end Loads

/-- LOCK at an aligned address is LD that also sets the LOCK bit (R212). -/
theorem runs_lock {s : State} (d r : Reg) (aligned : (s.readReg r).toNat % 4 = 0) :
    Runs (.lock d r) s (fun t =>
      LoadResult d id (s.readReg r) .word (s.mem.readWord (s.readReg r)) [.lock] s t ∧ t.lock = true) := by
  refine ⟨_, onWordAddress_aligned aligned, ?_⟩
  rw [State.setLock_writeReg]
  exact ⟨(loadResult_writeReg s d id (s.readReg r) .word _ 2).setLock true, rfl⟩

/-- Settles O27: LD and LOCK are word loads. -/
theorem loadWord_holds : Obligations.LoadWord := by
  intro d r disp s
  exact ⟨hasCode_of_encode rfl rfl, hasCode_of_encode rfl rfl, hasCode_of_encode rfl rfl,
    fun aligned => ⟨runs_loadWord rfl aligned, runs_lock d r aligned⟩, fun aligned => runs_loadWord rfl aligned⟩

/-- Settles O28: the base is written first and the loaded word after it, so with two registers each holds its
own value, and with one register nothing is said of it but that it alone was written. -/
theorem loadPostIncrement : Obligations.LoadPostIncrement := by
  intro d r s ea
  refine ⟨hasCode_of_encode rfl rfl, fun aligned => ⟨_, onWordAddress_aligned aligned, ?_, ?_, ?_, ?_⟩⟩
  · exact ((regsKept_afterRead s ea .word).onlyRegs (s.afterRead_psw ..)
      (onlyRegs_writeReg_writeReg ..)).congr rfl rfl rfl rfl
  · rw [State.advance_device, State.writeReg_device, State.writeReg_device]
    exact s.afterRead_device ea .word
  · exact (((frame_afterRead s ea .word).writeReg ..).writeReg ..).advance 2
  · intro distinct
    have loaded : postIncLoaded s d r = s.readWord ea := if_neg distinct
    rw [State.advance_readReg, State.advance_readReg, State.readReg_writeReg_same, loaded,
      State.readReg_writeReg_other _ _ _ _ distinct.symm, State.readReg_writeReg_same]
    exact ⟨readGives_readAs .., rfl⟩

/-- Settles O29: each form is a byte load or a halfword load, with its extension. -/
theorem loadNarrow : Obligations.LoadNarrow := by
  intro d r disp s ea ea' half
  refine ⟨⟨?_, runs_loadByte rfl⟩, ⟨?_, runs_loadByte rfl⟩, ⟨?_, runs_loadByte rfl⟩, ⟨?_, runs_loadByte rfl⟩,
    ⟨?_, runs_loadHalf rfl⟩, ⟨?_, runs_loadHalf rfl⟩, ⟨?_, runs_loadHalf rfl⟩, ⟨?_, runs_loadHalf rfl⟩⟩
  all_goals exact hasCode_of_encode rfl rfl

/-! ## What a write did, seen from a later state -/

section Written

variable {s t u : State} {ea : Word}

/-- The effect of a write is seen in memory and the devices alone. -/
theorem WriteEffect.congr {n : Access} {v : Word} {p q : Prop} (h : WriteEffect ea n v p s t) (stored : p → q)
    (hm : u.mem = t.mem) (hd : u.device = t.device) : WriteEffect ea n v q s u := by
  unfold WriteEffect SameMemory at *
  rw [hm, hd]
  cases hh : s.holding ea <;> rw [hh] at h
  case ram => exact h.imp_left stored
  all_goals exact h

theorem WordWritten.congr {v : Word} (h : WordWritten ea v s t) (hm : u.mem = t.mem)
    (hd : u.device = t.device) : WordWritten ea v s u :=
  WriteEffect.congr h (fun ⟨h0, h1, h2, h3, others⟩ => by constructor <;> rwa [hm]) hm hd

theorem HalfWritten.congr {v : Half} (h : HalfWritten ea v s t) (hm : u.mem = t.mem)
    (hd : u.device = t.device) : HalfWritten ea v s u :=
  WriteEffect.congr h (fun ⟨h0, h1, others⟩ => by constructor <;> rwa [hm]) hm hd

theorem ByteWritten.congr {v : Byte} (h : ByteWritten ea v s t) (hm : u.mem = t.mem)
    (hd : u.device = t.device) : ByteWritten ea v s u :=
  WriteEffect.congr h (fun ⟨h0, others⟩ => by constructor <;> rwa [hm]) hm hd

end Written

/-! ## Stores -/

/-- A store without an update of its base. -/
theorem storeOnly_writeAs (s : State) (a : Word) (n : Access) (v : Word) (m : Memory) (len : Word) :
    StoreOnly s ((s.writeAs a n v m).advance len) where
  regs := ⟨s.writeAs_gprs .., s.writeAs_spi .., s.writeAs_spu ..⟩
  frame := (frame_writeAs s a n v m).advance len

/-- A store with an update of its base. -/
theorem storeUpdate_writeAs (s : State) (a : Word) (n : Access) (v : Word) (m : Memory) (b : Reg)
    (base len : Word) : StoreUpdate b base s (((s.writeAs a n v m).writeReg b base).advance len) where
  base := State.readReg_writeReg_same ..
  regs := ((regsKept_writeAs s a n v m).onlyRegs (s.writeAs_psw ..) (onlyRegs_writeReg ..)).congr rfl rfl rfl rfl
  frame := ((frame_writeAs s a n v m).writeReg b base).advance len

section Stores

variable {i : Instr} {s : State} {b : Reg} {ea base len : Word}

/-- An instruction that stores a word, at an aligned address. -/
theorem runs_storeWord {v : Word} (wf : s.mem.wf = true)
    (he : exec i s = onWordAddress s ea ((s.storeWord ea v).advance len)) (aligned : ea.toNat % 4 = 0) :
    Runs i s (fun t => WordWritten ea v s t ∧ StoreOnly s t) :=
  ⟨_, he.trans (onWordAddress_aligned aligned), (wordWritten_storeWord s ea v wf).congr rfl rfl,
    storeOnly_writeAs ..⟩

/-- An instruction that stores a halfword, at an aligned address. -/
theorem runs_storeHalf {v : Half} (wf : s.mem.wf = true)
    (he : exec i s = onHalfAddress s ea ((s.storeHalf ea v).advance len)) (aligned : ea.toNat % 2 = 0) :
    Runs i s (fun t => HalfWritten ea v s t ∧ StoreOnly s t) :=
  ⟨_, he.trans (onHalfAddress_aligned aligned), (halfWritten_storeHalf s ea v wf).congr rfl rfl,
    storeOnly_writeAs ..⟩

/-- An instruction that stores a byte. -/
theorem runs_storeByte {v : Byte} (wf : s.mem.wf = true)
    (he : exec i s = .next ((s.storeByte ea v).advance len)) :
    Runs i s (fun t => ByteWritten ea v s t ∧ StoreOnly s t) :=
  ⟨_, he, (byteWritten_storeByte s ea v wf).congr rfl rfl, storeOnly_writeAs ..⟩

/-- An instruction that stores a word and updates its base, at an aligned address. -/
theorem runs_storeWord_update {v : Word} (wf : s.mem.wf = true)
    (he : exec i s = onWordAddress s ea (((s.storeWord ea v).writeReg b base).advance len))
    (aligned : ea.toNat % 4 = 0) : Runs i s (fun t => WordWritten ea v s t ∧ StoreUpdate b base s t) :=
  ⟨_, he.trans (onWordAddress_aligned aligned),
    (wordWritten_storeWord s ea v wf).congr (State.writeReg_mem ..) (State.writeReg_device ..),
    storeUpdate_writeAs ..⟩

/-- An instruction that stores a halfword and updates its base, at an aligned address. -/
theorem runs_storeHalf_update {v : Half} (wf : s.mem.wf = true)
    (he : exec i s = onHalfAddress s ea (((s.storeHalf ea v).writeReg b base).advance len))
    (aligned : ea.toNat % 2 = 0) : Runs i s (fun t => HalfWritten ea v s t ∧ StoreUpdate b base s t) :=
  ⟨_, he.trans (onHalfAddress_aligned aligned),
    (halfWritten_storeHalf s ea v wf).congr (State.writeReg_mem ..) (State.writeReg_device ..),
    storeUpdate_writeAs ..⟩

/-- An instruction that moves its base `b` and stores register `a`, or where both are one register perhaps the
moved base (R223). -/
theorem runs_storeWord_preModify {a : Reg} {free : Prop} [Decidable free] (wf : s.mem.wf = true)
    (he : exec i s = onWordAddress s ea
      (((s.storeWord ea (if a = b ∧ free then ea else s.readReg a)).writeReg b ea).advance len))
    (aligned : ea.toNat % 4 = 0) :
    Runs i s (fun t =>
      StoreUpdate b ea s t ∧ (WordWritten ea (s.readReg a) s t ∨ (a = b ∧ WordWritten ea ea s t))) := by
  refine (runs_storeWord_update wf he aligned).imp fun t ⟨written, update⟩ => ⟨update, ?_⟩
  split at written
  · next oneRegister => exact .inr ⟨oneRegister.1, written⟩
  · exact .inl written

end Stores

/-- Settles O30: ST is a word store. -/
theorem storeWord : Obligations.StoreWord := fun _ _ _ _ wf =>
  ⟨⟨hasCode_of_encode rfl rfl, runs_storeWord wf rfl⟩, ⟨hasCode_of_encode rfl rfl, runs_storeWord wf rfl⟩⟩

/-- Settles O31: ST @+R and ST @-R differ in the moved base alone. -/
theorem storePreModify : Obligations.StorePreModify := fun _ _ _ wf =>
  ⟨⟨hasCode_of_encode rfl rfl, runs_storeWord_preModify wf rfl⟩,
    ⟨hasCode_of_encode rfl rfl, runs_storeWord_preModify wf rfl⟩⟩

/-- Settles O32: STB and STH are byte and halfword stores, one form of STH with an update of its base. -/
theorem storeNarrow : Obligations.StoreNarrow := by
  intro a b disp s wf ea ea' byte half
  refine ⟨⟨?_, runs_storeByte wf rfl⟩, ⟨?_, runs_storeByte wf rfl⟩, ⟨?_, runs_storeHalf wf rfl⟩,
    ⟨?_, runs_storeHalf_update wf rfl⟩, ⟨?_, runs_storeHalf wf rfl⟩⟩
  all_goals exact hasCode_of_encode rfl rfl

/-! ## UNLOCK -/

/-- UNLOCK makes no access while the LOCK bit is 0 (R222). -/
theorem exec_unlock_unlocked {s : State} (a b : Reg) (unlocked : s.lock = false) :
    exec (.unlock a b) s =
      if wordAligned (s.readReg b) then .next ((s.setLock false).advance 2) else .refused .unlockMisaligned :=
  if_neg (by simp [unlocked])

/-- Settles O33: with the LOCK bit 1 UNLOCK is a word store that clears the bit; with the bit 0 it writes a bit
that is 0 already, or is refused. -/
theorem unlockStore : Obligations.UnlockStore := by
  intro a b s wf ea
  refine ⟨hasCode_of_encode rfl rfl, fun aligned locked => ?stores, fun aligned unlocked => ?keeps,
    fun misaligned unlocked => ?refuses⟩
  case stores =>
    refine ⟨_, (exec_unlock_locked a b locked).trans (onWordAddress_aligned aligned),
      (wordWritten_storeWord s ea (s.readReg a) wf).congr rfl rfl, rfl, ?_, ?_⟩
    · exact ⟨s.storeWord_gprs .., s.storeWord_spi .., s.storeWord_spu ..⟩
    · have stored : Frame [.mem, .device] s (s.storeWord ea (s.readReg a)) := frame_writeAs ..
      exact ((stored.mono (by simp)).setLock false (by simp)).advance 2
  case keeps =>
    refine ⟨_, (exec_unlock_unlocked a b unlocked).trans (if_pos ((wordAligned_iff ea).2 aligned)), rfl,
      ⟨rfl, rfl, rfl⟩, ?_⟩
    have cleared : s.setLock false = s := by rw [← unlocked]; rfl
    rw [cleared]
    exact (advance_onlyPc s 2).frame
  case refuses =>
    exact (exec_unlock_unlocked a b unlocked).trans (if_neg fun e => misaligned ((wordAligned_iff ea).1 e))

end Sys2Proof.Machine
end

section
/-! PROOFS of the statements about transfers (spec/41_transfer.md). Every form but MVTC writes one register. A
control register reads as the number that its fields give at their bits, and MVTC writes one piece of the state. -/

namespace Sys2Proof.Machine

/-! ## Constants and moves -/

/-- An instruction whose whole effect is one register write. -/
theorem runs_writeNext {i : Instr} {s : State} {d : Reg} {v len : Word} (he : exec i s = writeNext s d v len) :
    Runs i s (RegResult d v s) :=
  ⟨_, he, (writeNext_next rfl).1⟩

/-- A joined bit string is the number of its high-order part, moved past its low-order part, and the latter. -/
theorem toNat_append_eq_add {m n : Nat} (x : BitVec m) (y : BitVec n) :
    (x ++ y).toNat = x.toNat * 2 ^ n + y.toNat := by
  rw [BitVec.toNat_append, ← Nat.shiftLeft_add_eq_or_of_lt y.isLt, Nat.shiftLeft_eq]

/-- SETH's immediate is shifted to the upper halfword (R237). -/
theorem upperImm_eq_shiftLeft (x : Half) : upperImm x = x.zeroExtend 32 <<< 16 := by
  apply BitVec.eq_of_toNat_eq
  rw [upperImm, toNat_append_eq_add, BitVec.toNat_shiftLeft, Nat.shiftLeft_eq, BitVec.toNat_setWidth]
  simp
  omega

/-- Settles O10: each form writes one register with its constant, extended or shifted, or with Rsrc. -/
theorem constantsAndMoves : Obligations.ConstantsAndMoves := by
  intro d r imm8 imm imm24 s
  refine ⟨⟨hasCode_of_encode rfl ?_, runs_writeNext rfl⟩, ⟨hasCode_of_encode rfl ?_, runs_writeNext rfl⟩,
    ⟨hasCode_of_encode rfl rfl, runs_writeNext rfl⟩, ⟨hasCode_of_encode rfl rfl, runs_writeNext rfl⟩,
    ⟨hasCode_of_encode rfl rfl, ?_⟩⟩
  · exact congrArg Code.word (Laws.longCode_eq ..)
  · exact congrArg Code.half (Laws.byteCode_eq ..)
  · exact upperImm_eq_shiftLeft imm ▸ runs_writeNext rfl

/-! ## The control register numbers -/

/-- The six numbers of R38 are the assigned ones. -/
theorem assigned_of_mem : ∀ cr : CrNum, cr ∈ ([0, 1, 2, 3, 6, 7] : List CrNum) → cr.assigned = true := by
  decide

/-- Any other number names no register to read or to write (R57). -/
theorem no_register_of_not_mem {cr : CrNum} (h : cr ∉ ([0, 1, 2, 3, 6, 7] : List CrNum)) (s : State) :
    s.readCr cr = none ∧ ∀ v, s.writeCr cr v = none := by
  rcases crNum_cases cr with rfl | rfl | rfl | rfl | rfl | rfl | ⟨-, none⟩
  case inr.inr.inr.inr.inr.inr => exact none s
  all_goals exact absurd (by decide) h

/-- MVFC of a number that names no register is refused (log 14). -/
theorem mvfc_refused {s : State} {cr : CrNum} (d : Reg) (h : s.readCr cr = none) :
    exec (.mvfc d cr) s = .refused .unassignedControlRegister := by
  show execMvfc d cr s = _
  rw [execMvfc, h]

/-- MVTC to a number that names no register is refused (log 14). -/
theorem mvtc_refused {s : State} {r : Reg} {cr : CrNum} (h : s.writeCr cr (s.readReg r) = none) :
    exec (.mvtc r cr) s = .refused .unassignedControlRegister := by
  show execMvtc r cr s = _
  rw [execMvtc, h]

/-! ## What a control register reads as -/

/-- A word is the word of its number. -/
theorem eq_ofNat_of_toNat {w : Word} {n : Nat} (h : w.toNat = n) : w = .ofNat 32 n := by
  rw [← h, BitVec.ofNat_toNat, BitVec.setWidth_eq]

/-- The PSW as a number: each bit at its place, and 0 elsewhere (R39, R41). -/
theorem pswWord_toNat (p : Psw) :
    (pswWord p).toNat = p.bsm.toNat * 2 ^ 15 + p.bie.toNat * 2 ^ 14 + p.bc.toNat * 2 ^ 8 + p.sm.toNat * 2 ^ 7 +
      p.ie.toNat * 2 ^ 6 + p.c.toNat := by
  simp only [pswWord, toNat_append_eq_add, BitVec.toNat_ofBool, BitVec.ofNat_eq_ofNat,
    BitVec.toNat_zero]
  omega

/-- The CBR as a number (R44). -/
theorem cbrWord_toNat (p : Psw) : (cbrWord p).toNat = p.c.toNat := by
  simp only [cbrWord, toNat_append_eq_add, BitVec.toNat_ofBool, BitVec.ofNat_eq_ofNat,
    BitVec.toNat_zero]
  omega

/-- The FPSR as a number: each bit at its place, RM in the low-order two, and 0 elsewhere (R48, R55). -/
theorem fpsrWord_toNat (f : Fpsr) :
    (fpsrWord f).toNat =
      (fpsrSummary f).toNat * 2 ^ 31 + f.fx.toNat * 2 ^ 30 + f.fu.toNat * 2 ^ 29 + f.fz.toNat * 2 ^ 28 +
        f.fo.toNat * 2 ^ 27 + f.fv.toNat * 2 ^ 26 + f.ex.toNat * 2 ^ 14 + f.eu.toNat * 2 ^ 13 +
        f.ez.toNat * 2 ^ 12 + f.eo.toNat * 2 ^ 11 + f.ev.toNat * 2 ^ 10 + f.dn.toNat * 2 ^ 8 +
        f.ce.toNat * 2 ^ 7 + f.cx.toNat * 2 ^ 6 + f.cu.toNat * 2 ^ 5 + f.cz.toNat * 2 ^ 4 +
        f.co.toNat * 2 ^ 3 + f.cv.toNat * 2 ^ 2 + (rmBits f.rm).toNat := by
  simp only [fpsrWord, toNat_append_eq_add, BitVec.toNat_ofBool, BitVec.ofNat_eq_ofNat,
    BitVec.toNat_zero]
  omega

/-- Settles O11: MVFC writes what each register reads as, or is refused. -/
theorem readControl : Obligations.ReadControl := by
  intro d s
  refine ⟨fun cr mem => hasCode_of_encode (assigned_of_mem cr mem) rfl, ?psw, ?cbr, mvfc_runs d rfl,
    mvfc_runs d rfl, mvfc_runs d rfl, ?fpsr, fun cr other => mvfc_refused d (no_register_of_not_mem other s).1⟩
  case psw => exact mvfc_runs d (congrArg some (eq_ofNat_of_toNat (pswWord_toNat s.psw)))
  case cbr => exact mvfc_runs d (congrArg some (eq_ofNat_of_toNat (cbrWord_toNat s.psw)))
  case fpsr =>
    refine mvfc_runs d (congrArg some (eq_ofNat_of_toNat ((fpsrWord_toNat s.fpsr).trans ?_)))
    cases s.fpsr.rm <;> rfl

/-! ## What MVTC writes -/

namespace Frame

variable {written : List Piece} {s t : State}

/-- A frame that lists the PSW leaves it open. -/
theorem withPsw (h : Frame written s t) (p : Psw) (hp : Piece.psw ∈ written) :
    Frame written s { t with psw := p } :=
  { h with psw := fun n => absurd hp n }

/-- A frame that lists BPC leaves it open. -/
theorem withBpc (h : Frame written s t) (b : Word) (hb : Piece.bpc ∈ written) :
    Frame written s { t with bpc := b } :=
  { h with bpc := fun n => absurd hb n }

/-- A frame that lists the FPSR leaves it open. -/
theorem withFpsr (h : Frame written s t) (f : Fpsr) (hf : Piece.fpsr ∈ written) :
    Frame written s { t with fpsr := f } :=
  { h with fpsr := fun n => absurd hf n }

end Frame

/-- The two low-order bits of a word, bit by bit. -/
theorem lowBits_eq_append (v : Word) :
    v.extractLsb' 0 2 = BitVec.ofBool (v.getLsbD 1) ++ BitVec.ofBool (v.getLsbD 0) := by
  apply BitVec.eq_of_getLsbD_eq
  intro i hi
  rw [BitVec.getLsbD_extractLsb', BitVec.getLsbD_append]
  interval_cases i <;> simp

/-- Settles O12: MVTC writes one control register, field by field, and moves the pc, or is refused. -/
theorem writeControl : Obligations.WriteControl := by
  intro r s
  have moved : Frame [] s (s.advance 2) := (advance_onlyPc s 2).frame
  refine ⟨fun cr mem => hasCode_of_encode (assigned_of_mem cr mem) rfl, ⟨?psw, ?cbr, ?spi, ?spu, ?bpc, ?fpsr⟩,
    fun cr other => mvtc_refused ((no_register_of_not_mem other s).2 _)⟩
  case psw => exact mvtc_runs rfl ⟨rfl, ⟨rfl, rfl, rfl⟩, (moved.mono (by simp)).withPsw _ (by simp)⟩
  case cbr => exact mvtc_runs rfl ⟨⟨rfl, rfl, rfl⟩, moved⟩
  case spi | spu => exact mvtc_runs rfl ⟨rfl, rfl, rfl, { moved with }⟩
  case bpc => exact mvtc_runs rfl ⟨rfl, ⟨rfl, rfl, rfl⟩, (moved.mono (by simp)).withBpc _ (by simp)⟩
  case fpsr =>
    refine mvtc_runs rfl ⟨?_, ⟨rfl, rfl, rfl⟩, (moved.mono (by simp)).withFpsr _ (by simp)⟩
    simp only [State.advance_fpsr, fpsrAfterWrite, lowBits_eq_append]
    cases (s.readReg r).getLsbD 1 <;> cases (s.readReg r).getLsbD 0 <;> rfl

end Sys2Proof.Machine
end

section
/-! PROOFS of the statements about compares, arithmetic and logic (spec/42_compare_arith_logic.md). No
instruction of the family traps (R250), so each runs to the one state that its operation writes: a register,
a register and C, or C alone. What is left is that the value written is the exact one of the statement. -/

namespace Sys2Proof.Machine

/-! ## The three outcomes of the family -/

/-- An instruction whose whole effect is one register write and C. -/
theorem runs_writeFlagNext {i : Instr} {s : State} {d : Reg} {v len : Word} {c : Bool}
    (he : exec i s = writeFlagNext s d v c len) : Runs i s (RegFlagResult d v c s) :=
  ⟨_, he, (writeFlagNext_next rfl).1⟩

/-- An instruction whose whole effect is C. -/
theorem runs_flagNext {i : Instr} {s : State} {c : Bool} {len : Word} (he : exec i s = flagNext s c len) :
    Runs i s (FlagResult c s) :=
  ⟨_, he, (flagNext_next rfl).1⟩

/-! ## Immediates -/

/-- A sign-extended 16-bit immediate keeps its signed value (R142). -/
theorem sext_toInt (x : BitVec 16) : (sext x).toInt = x.toInt :=
  BitVec.toInt_signExtend_of_le (by decide)

/-! ## Arithmetic -/

/-- Settles O1: every form writes one register with a sum or a difference of words. -/
theorem plainArithmetic : Obligations.PlainArithmetic := by
  intro d r imm imm8 s
  refine ⟨⟨?_, runs_writeNext rfl⟩, ⟨?_, runs_writeNext rfl⟩, ⟨?addi, runs_writeNext rfl⟩,
    ⟨?_, runs_writeNext rfl⟩, ⟨?_, runs_writeNext rfl⟩⟩
  case addi => exact hasCode_of_encode rfl (congrArg Code.half (Laws.byteCode_eq ..))
  all_goals exact hasCode_of_encode rfl rfl

/-- The overflow of an addition of an immediate is that of the exact sum with its own value (R259). -/
theorem addOverflow_sext (a : Word) (imm : BitVec 16) :
    addOverflow a (sext imm) = decide (a.toInt + imm.toInt < -2 ^ 31 ∨ 2 ^ 31 - 1 < a.toInt + imm.toInt) := by
  rw [addOverflow, sext_toInt, outsideSigned32]

/-- Settles O2: C is `addOverflow` or `subOverflow` of the operands, and the immediate counts as its own value. -/
theorem overflowArithmetic : Obligations.OverflowArithmetic := by
  intro d r imm s
  refine ⟨⟨hasCode_of_encode rfl rfl, runs_writeFlagNext rfl⟩, ⟨hasCode_of_encode rfl rfl, ?addv3⟩,
    ⟨hasCode_of_encode rfl rfl, runs_writeFlagNext rfl⟩⟩
  case addv3 =>
    rw [← addOverflow_sext]
    exact runs_writeFlagNext rfl

/-- Settles O3: ADDX writes `carrySum` and `carryOut`, SUBX `borrowDiff` and `borrowOut`. -/
theorem carryArithmetic : Obligations.CarryArithmetic := fun _ _ _ =>
  ⟨⟨hasCode_of_encode rfl rfl, runs_writeFlagNext rfl⟩, ⟨hasCode_of_encode rfl rfl, runs_writeFlagNext rfl⟩⟩

/-! ## Logic -/

/-- Settles O4: every form writes one register, and NOT's complement is the subtraction of the statement. -/
theorem logicOperations : Obligations.LogicOperations := by
  intro d r imm s
  refine ⟨⟨?_, runs_writeNext rfl⟩, ⟨?_, runs_writeNext rfl⟩, ⟨?_, ?not⟩, ⟨?_, runs_writeNext rfl⟩,
    ⟨?_, runs_writeNext rfl⟩, ⟨?_, runs_writeNext rfl⟩, ⟨?_, runs_writeNext rfl⟩⟩
  case not =>
    have complement : 0xFFFFFFFF - s.readReg r = ~~~s.readReg r := BitVec.allOnes_sub_eq_not _
    rw [complement]
    exact runs_writeNext rfl
  all_goals exact hasCode_of_encode rfl rfl

/-! ## Compares -/

/-- A signed compare with an immediate is one with the immediate's own value (R252). -/
theorem signedLess_sext (a : Word) (imm : BitVec 16) : signedLess a (sext imm) = decide (a.toInt < imm.toInt) := by
  rw [signedLess, sext_toInt]

/-- Settles O5: C is `signedLess` or `unsignedLess` of the operands; CMPUI reads the extended immediate as
unsigned, and CMPI's counts as its own value. -/
theorem compares : Obligations.Compares := by
  intro a b imm s
  refine ⟨⟨hasCode_of_encode rfl rfl, runs_flagNext rfl⟩, ⟨hasCode_of_encode rfl rfl, ?cmpi⟩,
    ⟨hasCode_of_encode rfl rfl, runs_flagNext rfl⟩, ⟨hasCode_of_encode rfl rfl, runs_flagNext rfl⟩⟩
  case cmpi =>
    rw [← signedLess_sext]
    exact runs_flagNext rfl

end Sys2Proof.Machine
end

section
/-! PROOFS of the statements about multiplication, division and shifts (spec/43_muldiv_shift.md). No instruction
of the family traps (R290), so each runs to the one state that its operation writes. What is left is that the
word written is the exact number of the statement: the operations of words are read as those of numbers. -/

namespace Sys2Proof.Machine

/-! ## Division -/

/-- An instruction whose whole effect is a division: its value, or with a zero divisor Rdest as it was (R290). -/
theorem runs_divideNext {i : Instr} {s : State} {d r : Reg} {v : Word} (he : exec i s = divideNext s d r v) :
    Runs i s (RegResult d (if s.readReg r = 0 then s.readReg d else v) s) := by
  have answers : ∃ t, divideNext s d r v = .next t := by
    unfold divideNext
    split <;> exact ⟨_, rfl⟩
  obtain ⟨t, ht⟩ := answers
  exact ⟨t, he.trans ht, (divideNext_next ht).1⟩

/-- Settles O6: both are divisions, of the operands' unsigned numbers. -/
theorem divideUnsigned : Obligations.DivideUnsigned := fun _ _ _ =>
  ⟨⟨hasCode_of_encode rfl rfl, runs_divideNext rfl⟩, ⟨hasCode_of_encode rfl rfl, runs_divideNext rfl⟩⟩

/-- Division rounded toward zero divides the magnitudes and multiplies the signs. -/
theorem tdiv_eq_sign_mul_natAbs_div (a b : Int) :
    a.tdiv b = a.sign * b.sign * (a.natAbs / b.natAbs : Nat) := by
  rw [← Int.sign_mul_natAbs (a.tdiv b), Int.sign_tdiv, Int.natAbs_tdiv]
  split
  · next small => rw [Nat.div_eq_of_lt small, Int.zero_mul, Int.natCast_zero, Int.mul_zero]
  · rfl

/-- The division without a word for its quotient is that of -2^31 by -1 (R291). -/
theorem divisionOverflows_iff (a b : Word) :
    divisionOverflows a b = true ↔ a.toInt = -2 ^ 31 ∧ b.toInt = -1 := by
  have least : a.toInt = -2 ^ 31 ↔ a = 0x80000000 := BitVec.toInt_inj (y := (0x80000000 : Word))
  have minusOne : b.toInt = -1 ↔ b = 0xFFFFFFFF := BitVec.toInt_inj (y := (0xFFFFFFFF : Word))
  rw [least, minusOne, divisionOverflows, Bool.and_eq_true, decide_eq_true_iff, decide_eq_true_iff]

section Signed

variable {a b : Word} (s : State) (noOverflow : ¬ (a.toInt = -2 ^ 31 ∧ b.toInt = -1))
include noOverflow

/-- Any other quotient is rounded toward zero (R291). -/
theorem quotient_of_not_overflow : quotient s a b = .ofInt 32 (a.toInt.tdiv b.toInt) :=
  if_neg fun overflows => noOverflow ((divisionOverflows_iff a b).1 overflows)

/-- Any other remainder is what the quotient leaves of the dividend (R294). -/
theorem remainder_of_not_overflow :
    remainder s a b = .ofInt 32 (a.toInt - b.toInt * a.toInt.tdiv b.toInt) := by
  rw [← Int.tmod_def]
  exact if_neg fun overflows => noOverflow ((divisionOverflows_iff a b).1 overflows)

end Signed

/-- Settles O7, case by case: a zero divisor, the open overflow, and every other division. -/
theorem divideSigned : Obligations.DivideSigned := by
  intro d r s
  refine ⟨hasCode_of_encode rfl rfl, hasCode_of_encode rfl rfl, ?_⟩
  intro a b q
  have div : Runs (.div d r) s _ := runs_divideNext rfl
  have rem : Runs (.rem d r) s _ := runs_divideNext rfl
  have zero_iff : s.readReg r = 0 ↔ b = 0 := BitVec.toInt_inj.symm
  split_ifs with zero overflow
  · rw [if_pos (zero_iff.2 zero)] at div rem
    exact ⟨div, rem⟩
  · exact ⟨div.imp fun _ result => ⟨_, result⟩, rem.imp fun _ result => ⟨_, result⟩⟩
  · have q_eq : q = a.tdiv b := (tdiv_eq_sign_mul_natAbs_div a b).symm
    rw [if_neg (zero_iff.not.2 zero)] at div rem
    rw [quotient_of_not_overflow s overflow] at div
    rw [remainder_of_not_overflow s overflow] at rem
    rw [q_eq]
    exact ⟨div, rem⟩

/-! ## Multiplication -/

/-- Writing the accumulator changes only the accumulator. -/
theorem frame_withAcc (s : State) (v : BitVec 56) : Frame [.acc] s { s with acc := v } := by
  constructor <;> simp [SameMemory]

/-- Settles O8: the free accumulator is written first, which no register sees, and then Rdest. -/
theorem multiply : Obligations.Multiply := by
  intro d r s
  have kept : RegsKept s { s with acc := Config.accAfterMul s.drawIndex } := ⟨rfl, rfl, rfl⟩
  have accWritten := frame_withAcc s (Config.accAfterMul s.drawIndex)
  refine ⟨hasCode_of_encode rfl rfl, _, rfl, ?_, ?_, (accWritten.writeReg d _).advance 2⟩
  · exact (writeNext_next rfl).1.value
  · exact kept.onlyRegs rfl (writeNext_next rfl).1.regs

/-! ## Shifts -/

/-- Five low-order bits are the number modulo 32 (R145). -/
theorem fiveBits_toNat {w : Nat} (x : BitVec w) : (x.extractLsb' 0 5).toNat = x.toNat % 32 :=
  BitVec.extractLsb'_toNat 0 5 x

/-- A left shift multiplies, modulo 2^32. -/
theorem shiftLeft_eq_ofNat (x : Word) (n : Nat) : x <<< n = .ofNat 32 (x.toNat * 2 ^ n) := by
  apply BitVec.eq_of_toNat_eq
  rw [BitVec.toNat_shiftLeft, Nat.shiftLeft_eq, BitVec.toNat_ofNat]

/-- A logical right shift divides. -/
theorem ushiftRight_eq_ofNat (x : Word) (n : Nat) : x >>> n = .ofNat 32 (x.toNat / 2 ^ n) :=
  eq_ofNat_of_toNat (by rw [BitVec.toNat_ushiftRight, Nat.shiftRight_eq_div_pow])

/-- An arithmetic right shift divides, rounding down. -/
theorem sshiftRight_eq_ofInt (x : Word) (n : Nat) : x.sshiftRight n = .ofInt 32 (x.toInt / 2 ^ n) := by
  rw [← BitVec.ofInt_toInt (x := x.sshiftRight n), BitVec.toInt_sshiftRight, Int.shiftRight_eq_div_pow,
    Nat.cast_pow, Nat.cast_ofNat]

/-- Settles O9: each form writes one register with its shift, which is the arithmetic of the statement. -/
theorem shifts : Obligations.Shifts := by
  intro d r imm imm5 s
  simp only [← fiveBits_toNat, ← shiftLeft_eq_ofNat, ← ushiftRight_eq_ofNat, ← sshiftRight_eq_ofInt]
  refine ⟨⟨?_, runs_writeNext rfl⟩, ⟨?_, runs_writeNext rfl⟩, ⟨?slli, runs_writeNext rfl⟩,
    ⟨?_, runs_writeNext rfl⟩, ⟨?_, runs_writeNext rfl⟩, ⟨?srai, runs_writeNext rfl⟩,
    ⟨?_, runs_writeNext rfl⟩, ⟨?_, runs_writeNext rfl⟩, ⟨?srli, runs_writeNext rfl⟩⟩
  case slli | srai | srli => exact hasCode_of_encode rfl (congrArg Code.half (Laws.shiftCode_eq ..))
  all_goals exact hasCode_of_encode rfl rfl

end Sys2Proof.Machine
end

section
/-! PROOFS of the statements about branches (spec/44_branch.md). No branch traps (R320): each goes to one target,
on a condition or always, and the two linking forms write R14 first. What is left is that the bit that a branch
tests is the condition of the statement. -/

namespace Sys2Proof.Machine

/-! ## The kinds of branch -/

section Kinds

variable {i : Instr} {s : State} {target len : Word}

/-- An instruction that branches when `p` holds. -/
theorem runs_branchIf {p : Prop} [Decidable p] {taken : Bool} (he : exec i s = branchIf s taken target len)
    (tests : taken = true ↔ p) : Runs i s (OnlyPc (if p then target else s.pc + len) s) := by
  simp only [← tests]
  exact ⟨_, he, branchIf_next rfl⟩

/-- An instruction that branches unless `p` holds. -/
theorem runs_branchUnless {p : Prop} [Decidable p] {taken : Bool} (he : exec i s = branchIf s taken target len)
    (tests : taken = true ↔ ¬ p) : Runs i s (OnlyPc (if p then s.pc + len else target) s) :=
  ite_not p target (s.pc + len) ▸ runs_branchIf he tests

/-- Nothing but the pc changes when it is set. -/
theorem goto_onlyPc (s : State) (target : Word) : OnlyPc target s (s.goto target) :=
  ⟨rfl, ⟨rfl, rfl, rfl⟩, by constructor <;> simp [SameMemory]⟩

/-- An instruction that always branches. -/
theorem runs_goto (he : exec i s = .next (s.goto target)) : Runs i s (OnlyPc target s) :=
  ⟨_, he, goto_onlyPc s target⟩

/-- An instruction that always branches and links. -/
theorem runs_branchLink (he : exec i s = branchLink s target) : Runs i s (LinkResult s.linkValue target s) :=
  ⟨_, he, branchLink_next rfl⟩

end Kinds

/-! ## Codes with one constant -/

/-- A halfword code that the encoder writes with an 8-bit constant. -/
theorem code16Byte_of_encode {i : Instr} {op1 r1 : BitVec 4} {c : BitVec 8} (wf : i.wellFormed = true)
    (he : encode i = .half (byteCode op1 r1 c)) : Code16Byte i op1 r1 c :=
  hasCode_of_encode wf (he.trans (congrArg Code.half (Laws.byteCode_eq ..)))

/-- A word code that the encoder writes with a 24-bit constant. -/
theorem code32Long_of_encode {i : Instr} {op1 r1 : BitVec 4} {c : BitVec 24} (wf : i.wellFormed = true)
    (he : encode i = .word (longCode op1 r1 c)) : Code32Long i op1 r1 c :=
  hasCode_of_encode wf (he.trans (congrArg Code.word (Laws.longCode_eq ..)))

/-! ## Branches to a label -/

/-- Settles O16: BC branches if C is 1, BNC unless it is. -/
theorem branchOnC : Obligations.BranchOnC := by
  intro p q s
  have clear : (!s.psw.c) = true ↔ ¬ s.psw.c = true := by simp
  exact ⟨⟨code16Byte_of_encode rfl rfl, runs_branchIf rfl Iff.rfl⟩,
    ⟨code32Long_of_encode rfl rfl, runs_branchIf rfl Iff.rfl⟩,
    ⟨code16Byte_of_encode rfl rfl, runs_branchUnless rfl clear⟩,
    ⟨code32Long_of_encode rfl rfl, runs_branchUnless rfl clear⟩⟩

/-- Settles O17: BRA sets the pc, BL writes R14 and sets the pc. -/
theorem branchAlways : Obligations.BranchAlways := fun _ _ _ =>
  ⟨⟨code16Byte_of_encode rfl rfl, runs_goto rfl⟩, ⟨code32Long_of_encode rfl rfl, runs_goto rfl⟩,
    ⟨code16Byte_of_encode rfl rfl, runs_branchLink rfl⟩, ⟨code32Long_of_encode rfl rfl, runs_branchLink rfl⟩⟩

/-! ## Compare and branch -/

/-- The sign bit is set on the negative words. -/
theorem msb_iff_neg (x : Word) : x.msb = true ↔ x.toInt < 0 := by
  rw [BitVec.msb_eq_toInt, decide_eq_true_iff]

/-- The sign bit is clear on the other words. -/
theorem not_msb_iff_nonneg (x : Word) : (!x.msb) = true ↔ 0 ≤ x.toInt := by
  rw [Bool.not_eq_true', ← Bool.not_eq_true, msb_iff_neg, not_lt]

/-- Zero is the word of the number 0. -/
theorem eq_zero_iff_toInt (x : Word) : x = 0 ↔ x.toInt = 0 := BitVec.toInt_inj.symm

/-- What BLEZ tests is that the word is not positive (R338). -/
theorem msb_or_zero_iff (x : Word) : (x.msb || x = 0) = true ↔ x.toInt ≤ 0 := by
  rw [Bool.or_eq_true, decide_eq_true_iff, msb_iff_neg, eq_zero_iff_toInt, le_iff_lt_or_eq]

/-- What BGTZ tests is that the word is positive (R339). -/
theorem not_msb_and_nonzero_iff (x : Word) : (!x.msb && x ≠ 0) = true ↔ 0 < x.toInt := by
  rw [Bool.and_eq_true, decide_eq_true_iff, not_msb_iff_nonneg, ne_eq, eq_zero_iff_toInt, lt_iff_le_and_ne,
    ne_comm]

/-- Settles O18: each form branches if, or unless, what it tests of its operands is the condition of the
statement. -/
theorem compareAndBranch : Obligations.CompareAndBranch := by
  intro a b p s
  refine ⟨⟨?_, runs_branchIf rfl decide_eq_true_iff⟩, ⟨?_, runs_branchUnless rfl decide_eq_true_iff⟩,
    ⟨?_, runs_branchIf rfl decide_eq_true_iff⟩, ⟨?_, runs_branchUnless rfl decide_eq_true_iff⟩,
    ⟨?_, runs_branchIf rfl (msb_iff_neg _)⟩, ⟨?_, runs_branchIf rfl (not_msb_iff_nonneg _)⟩,
    ⟨?_, runs_branchIf rfl (msb_or_zero_iff _)⟩, ⟨?_, runs_branchIf rfl (not_msb_and_nonzero_iff _)⟩⟩
  all_goals exact hasCode_of_encode rfl rfl

/-! ## Jumps to a register -/

/-- A link value is the address of a word. -/
theorem wordBase_linkValue (s : State) : wordBase s.linkValue = s.linkValue := by
  apply wordBase_of_aligned
  rw [State.linkValue, BitVec.toNat_add, wordBase_toNat]
  simp

/-- JL goes to the register's address, and JL R14 there or to the new link value (R334, U3, log 37). -/
theorem jumpLinkTarget_cases (s : State) (r : Reg) :
    jumpLinkTarget s r = wordBase (s.readReg r) ∨ (r = 14 ∧ jumpLinkTarget s r = s.linkValue) := by
  unfold jumpLinkTarget
  split
  · next free => exact .inr ⟨free.1, wordBase_linkValue s⟩
  · exact .inl rfl

/-- Settles O19: JMP sets the pc, JL writes R14 and sets the pc to one of its two targets. -/
theorem registerJumps : Obligations.RegisterJumps := by
  intro r s
  have jl : Runs (.jl r) s (LinkResult s.linkValue (jumpLinkTarget s r) s) := runs_branchLink rfl
  refine ⟨⟨hasCode_of_encode rfl rfl, runs_goto rfl⟩, hasCode_of_encode rfl rfl, jl.imp fun t result => ?_⟩
  rcases jumpLinkTarget_cases s r with target | ⟨r14, target⟩
  · exact .inl (by rwa [target] at result)
  · exact .inr ⟨r14, by rwa [target] at result⟩

end Sys2Proof.Machine
end

section
/-! PROOFS of the statements about TRAP and RTE (spec/45_eit_instructions.md). TRAP is the common EIT entry with
its own vector and saved pc. RTE is a jump to the word of BPC that leaves only the PSW and BPC open. -/

namespace Sys2Proof.Machine

/-- Settles O35: TRAP takes the EIT entry of its number, which keeps SM, as every entry but the interrupt's
does. -/
theorem trapEntry : Obligations.TrapEntry := fun n s =>
  ⟨hasCode_of_encode rfl rfl, _, rfl, eitEntry_entered s (.trap n) (s.pc + 4)⟩

/-- The return from an EIT is a jump after which only the PSW and BPC may differ (R352, R525). -/
theorem eitReturn_frame (s : State) : Frame [.psw, .bpc] s s.eitReturn :=
  have jumped : Frame [.psw, .bpc] s (s.goto (wordBase s.bpc)) := (goto_onlyPc s _).frame.mono (by simp)
  (jumped.withPsw s.eitReturn.psw (by simp)).withBpc s.eitReturn.bpc (by simp)

/-- Settles O36: RTE restores three PSW bits and the pc, and BPC ends even whatever is drawn for it. -/
theorem returnFromEit : Obligations.ReturnFromEit := by
  refine ⟨hasCode_of_encode rfl rfl, fun s => ⟨s.eitReturn, rfl, s.eitReturn_sm, s.eitReturn_ie,
    s.eitReturn_c, s.eitReturn_pc, ?bpcEven, ⟨rfl, rfl, rfl⟩, eitReturn_frame s⟩⟩
  case bpcEven =>
    rw [s.eitReturn_bpc]
    exact bpcAfterRte_even (Config.bpcAfterRte s.drawIndex)

end Sys2Proof.Machine
end

section
/-! PROOFS of the statements about the DSP function instructions (spec/46_dsp.md). No instruction of the family
traps (R360), so each runs to the one state that its operation writes: the accumulator, or one register. What is
left is that the model's reading of the accumulator and its rounding are those of the statement. -/

namespace Sys2Proof.Machine

/-! ## Writing the accumulator -/

/-- An instruction whose whole effect is an exact integer put in the accumulator (R376). -/
theorem runs_accNext {i : Instr} {s : State} {v : Int} (he : exec i s = accNext s v) :
    Runs i s (AccResult (.ofInt 56 v) s) :=
  ⟨_, he, (accNext_next rfl).1⟩

/-- An instruction whose whole effect is a bit string put in the accumulator. -/
theorem runs_withAcc {i : Instr} {s : State} {v : BitVec 56} {len : Word}
    (he : exec i s = .next ({ s with acc := v }.advance len)) : Runs i s (AccResult v s) :=
  ⟨_, he, rfl, ⟨rfl, rfl, rfl⟩, (frame_withAcc s v).advance len⟩

/-! ## Products -/

/-- Settles O21: each form puts in the accumulator the product of the signed halfwords or words it names. -/
theorem dspMultiply : Obligations.DspMultiply := fun _ _ _ =>
  ⟨⟨hasCode_of_encode rfl rfl, runs_accNext rfl⟩, ⟨hasCode_of_encode rfl rfl, runs_accNext rfl⟩,
    ⟨hasCode_of_encode rfl rfl, runs_accNext rfl⟩, ⟨hasCode_of_encode rfl rfl, runs_accNext rfl⟩⟩

/-- Settles O22: each form puts in the accumulator the sum of what it held and such a product. -/
theorem dspAccumulate : Obligations.DspAccumulate := fun _ _ _ =>
  ⟨⟨hasCode_of_encode rfl rfl, runs_accNext rfl⟩, ⟨hasCode_of_encode rfl rfl, runs_accNext rfl⟩,
    ⟨hasCode_of_encode rfl rfl, runs_accNext rfl⟩, ⟨hasCode_of_encode rfl rfl, runs_accNext rfl⟩⟩

/-! ## Moves -/

/-- A field of the 64-bit reading below bit [56] is a field of the accumulator itself: the extension only adds
bits above it (R60). -/
theorem extractLsb'_acc64 (s : State) {start len : Nat} (within : start + len ≤ 56) :
    s.acc64.extractLsb' start len = s.acc.extractLsb' start len := by
  apply BitVec.eq_of_getLsbD_eq
  intro i hi
  have inAcc : start + i < 56 := by omega
  have inWide : start + i < 64 := by omega
  simp only [BitVec.getLsbD_extractLsb', State.acc64, BitVec.getLsbD_signExtend, inAcc, inWide, decide_true,
    Bool.true_and, if_true]

/-- Settles O23: MVFACHI alone reads above the accumulator's own bits; MVTACHI and MVTACLO join the register's
bits to those kept. -/
theorem accumulatorMoves : Obligations.AccumulatorMoves := by
  intro d s
  refine ⟨⟨?_, runs_writeNext rfl⟩, ⟨?_, ?mvfaclo⟩, ⟨?_, ?mvfacmi⟩, ⟨?_, runs_withAcc rfl⟩,
    ⟨?_, runs_withAcc rfl⟩⟩
  case mvfaclo =>
    rw [← extractLsb'_acc64 s (by decide)]
    exact runs_writeNext rfl
  case mvfacmi =>
    rw [← extractLsb'_acc64 s (by decide)]
    exact runs_writeNext rfl
  all_goals exact hasCode_of_encode rfl rfl

/-! ## Rounding -/

/-- Rounding with the constants of a unit written out: half of it, and the largest multiple of it in 48 signed
bits. -/
theorem roundAcc_eq {unit half max : Int} (v : Int) (half_eq : unit / 2 = half) (max_eq : 2 ^ 47 - unit = max) :
    roundAcc unit v =
      if v * 2 + half > max then max
      else if v * 2 + half < -2 ^ 47 then -2 ^ 47
      else v * 2 + half - (v * 2 + half) % unit := by
  subst half_eq max_eq
  rfl

/-- Settles O24: RAC rounds to the unit 2^16 and RACH to 2^32. -/
theorem roundAccumulator : Obligations.RoundAccumulator := by
  intro s
  have word := roundAcc_eq (unit := 2 ^ 16) (half := 0x8000) (max := 0x7FFFFFFF0000) s.acc.toInt rfl rfl
  have half := roundAcc_eq (unit := 2 ^ 32) (half := 0x80000000) (max := 0x7FFF00000000) s.acc.toInt rfl rfl
  refine ⟨⟨hasCode_of_encode rfl rfl, ?rac⟩, ⟨hasCode_of_encode rfl rfl, ?rach⟩⟩
  case rac => exact word ▸ runs_accNext rfl
  case rach => exact half ▸ runs_accNext rfl

end Sys2Proof.Machine
end

section
/-! PROOFS, part 1 of the floating-point arithmetic (spec/47_fp_common_arith.md): the fields of a word, its class
and its value (R400 to R402, R416). -/

namespace Sys2Proof.Machine

/-! ## The fields of a word -/

/-- The sign is bit [31] (R400). -/
theorem fpSign_eq (x : Word) : fpSign x = x.getLsbD 31 := BitVec.msb_eq_getLsbD_last x

/-- All but the sign bit cleared, a word is the zero of its sign. -/
theorem and_signBit (x : Word) : x &&& 0x80000000 = fpZero (fpSign x) := by
  rw [fpSign_eq]
  exact BitVec.and_twoPow x 31

@[simp] theorem fpSign_fpNegate (x : Word) : fpSign (fpNegate x) = !fpSign x :=
  BitVec.msb_xor.trans (Bool.xor_true _)

@[simp] theorem fpExp_fpNegate (x : Word) : fpExp (fpNegate x) = fpExp x :=
  BitVec.extractLsb'_xor.trans BitVec.xor_zero

@[simp] theorem fpFrac_fpNegate (x : Word) : fpFrac (fpNegate x) = fpFrac x :=
  BitVec.extractLsb'_xor.trans BitVec.xor_zero

/-- Quieting a NaN leaves its exponent (R416, log 25). -/
@[simp] theorem fpExp_quiet (x : Word) : fpExp (quiet x) = fpExp x :=
  BitVec.extractLsb'_or.trans BitVec.or_zero

@[simp] theorem fpSign_fpZero (neg : Bool) : fpSign (fpZero neg) = neg := by cases neg <;> rfl
@[simp] theorem fpSign_fpInfinity (neg : Bool) : fpSign (fpInfinity neg) = neg := by cases neg <;> rfl
@[simp] theorem fpSign_fpMax (neg : Bool) : fpSign (fpMax neg) = neg := by cases neg <;> rfl

/-! ## Classes -/

/-- The operand is no NaN, of either kind. -/
def IsNumber (x : Word) : Prop := fpClass x ≠ .snan ∧ fpClass x ≠ .qnan

theorem isNan_eq_false_iff (x : Word) : isNan x = false ↔ IsNumber x := by
  simp [isNan, IsNumber, and_comm]

@[simp] theorem fpClass_fpZero (neg : Bool) : fpClass (fpZero neg) = .zero := by cases neg <;> rfl
@[simp] theorem fpClass_fpInfinity (neg : Bool) : fpClass (fpInfinity neg) = .infinity := by cases neg <;> rfl
@[simp] theorem fpClass_fpMax (neg : Bool) : fpClass (fpMax neg) = .normalized := by cases neg <;> rfl

/-- The class does not depend on the sign (R401). -/
@[simp] theorem fpClass_fpNegate (x : Word) : fpClass (fpNegate x) = fpClass x := by simp [fpClass]

/-- A word is normalized when its exponent is neither 0 nor 255 (R401). -/
theorem fpClass_eq_normalized {x : Word} (zero : fpExp x ≠ 0) (top : fpExp x ≠ 255) :
    fpClass x = .normalized :=
  (if_neg top).trans (if_neg zero)

/-- The exponent of a denormalized number is 0 (R401). -/
theorem fpExp_of_denormalized {x : Word} (h : fpClass x = .denormalized) : fpExp x = 0 := by
  unfold fpClass at h
  split_ifs at h
  assumption

/-- The exponent of a NaN is 255 (R401). -/
theorem fpExp_of_not_isNumber {x : Word} (h : ¬ IsNumber x) : fpExp x = 255 := by
  unfold IsNumber fpClass at h
  split_ifs at h <;> simp_all

/-! ## Denormalized operands -/

/-- A denormalized operand is taken as the zero of its sign when DN = 1 (R402). -/
theorem flushOperand_of_denormalized {x : Word} (h : fpClass x = .denormalized) :
    flushOperand true x = fpZero (fpSign x) := by
  simp [flushOperand, h]

/-- Any other operand is taken as it is (R402). -/
theorem flushOperand_of_ne {dn : Bool} {x : Word} (h : fpClass x ≠ .denormalized) : flushOperand dn x = x := by
  simp [flushOperand, h]

/-- Taking an operand as a zero keeps its sign (R402). -/
@[simp] theorem fpSign_flushOperand (dn : Bool) (x : Word) : fpSign (flushOperand dn x) = fpSign x := by
  unfold flushOperand
  split
  · exact fpSign_fpZero _
  · rfl

/-- An operand is unimplemented when it is denormalized and DN = 0 (R402). -/
theorem unimplementedOperand_iff (dn : Bool) (x : Word) :
    unimplementedOperand dn x = true ↔ dn = false ∧ fpClass x = .denormalized := by
  simp [unimplementedOperand]

/-! ## Values -/

/-- The sign as a factor. -/
def signFactor (neg : Bool) : ℚ := if neg then -1 else 1

@[simp] theorem signFactor_true : signFactor true = -1 := rfl
@[simp] theorem signFactor_false : signFactor false = 1 := rfl

@[simp] theorem signFactor_xor (p q : Bool) : signFactor (p ^^ q) = signFactor p * signFactor q := by
  cases p <;> cases q <;> simp

@[simp] theorem signFactor_not (p : Bool) : signFactor (!p) = -signFactor p := by cases p <;> simp

@[simp] theorem abs_signFactor (p : Bool) : |signFactor p| = 1 := by cases p <;> simp

/-- The magnitude is 0 for the zeros alone (R401). -/
theorem fpMagnitude_ne_zero {x : Word} (h : fpClass x ≠ .zero) : fpMagnitude x ≠ 0 := by
  unfold fpMagnitude
  split
  · next exp =>
    intro frac
    have frac : fpFrac x = 0 := BitVec.eq_of_toNat_eq frac
    exact h (by simp [fpClass, exp, frac])
  · positivity

/-- A word's value is its sign and its magnitude in units of 2^-149 (R401). -/
theorem fpValue_eq (x : Word) : fpValue x = signFactor (fpSign x) * ((fpMagnitude x : ℚ) / 2 ^ 149) := by
  have magnitude : (if fpExp x = 0 then ((fpFrac x).toNat : ℚ) / 2 ^ 149
      else (1 + ((fpFrac x).toNat : ℚ) / 2 ^ 23) * (2 : ℚ) ^ (((fpExp x).toNat : Int) - 127)) =
      (fpMagnitude x : ℚ) / 2 ^ 149 := by
    unfold fpMagnitude
    split
    · rfl
    · next exp =>
      have pos : 1 ≤ (fpExp x).toNat := Nat.one_le_iff_ne_zero.2 fun h => exp (BitVec.eq_of_toNat_eq h)
      have power : (2 : ℚ) ^ (((fpExp x).toNat : Int) - 127) = 2 ^ ((fpExp x).toNat - 1) / 2 ^ 126 := by
        rw [← zpow_natCast, ← zpow_natCast, ← zpow_sub₀ two_ne_zero]
        congr 1
        omega
      rw [power]
      push_cast
      ring
  rw [← magnitude, fpSign_eq]
  rfl

/-- A word's value is its signed units (R401). -/
theorem fpValue_eq_fpUnits (x : Word) : fpValue x = (fpUnits x : ℚ) / 2 ^ 149 := by
  rw [fpValue_eq, fpUnits]
  cases fpSign x <;> simp [neg_div]

theorem fpValue_fpNegate (x : Word) : fpValue (fpNegate x) = -fpValue x := by
  simp [fpValue_eq, fpMagnitude]

end Sys2Proof.Machine
end

section
/-! PROOFS, part 2 of the floating-point arithmetic: rounding (spec/47_fp_common_arith.md R403, R404, R410 to
R412). A quotient of natural numbers is scaled to 24 bits before its point and rounded there; what a rounded value
is as a number, and as a word, follows from what the statement says of it (`RoundsTo`). -/

namespace Sys2Proof.Machine

/-! ## The exponent of a quotient -/

/-- A power of two is a quotient of two whose exponents are natural numbers. -/
theorem two_zpow_eq (k : Int) : (2 : ℚ) ^ k = 2 ^ k.toNat / 2 ^ (-k).toNat := by
  rw [← zpow_natCast, ← zpow_natCast, ← zpow_sub₀ two_ne_zero]
  congr 1
  omega

/-- The comparison that `exponentOf` makes is that of the quotient with a power of two. -/
theorem scaled_le_iff {num den : Nat} (hd : den ≠ 0) (e : Int) :
    den * 2 ^ e.toNat ≤ num * 2 ^ (-e).toNat ↔ (2 : ℚ) ^ e ≤ num / den := by
  have den_pos : (0 : ℚ) < den := by positivity
  rw [two_zpow_eq, div_le_div_iff₀ (by positivity) den_pos, mul_comm den]
  norm_cast

/-- The exponent E of a quotient: the difference of the logarithms is E or E + 1 (R403). -/
theorem exponentOf_bounds {num den : Nat} (hn : num ≠ 0) (hd : den ≠ 0) :
    (2 : ℚ) ^ exponentOf num den ≤ num / den ∧ (num : ℚ) / den < 2 ^ (exponentOf num den + 1) := by
  have num_low : ((2 ^ num.log2 : Nat) : ℚ) ≤ num := mod_cast Nat.log2_self_le hn
  have num_high : (num : ℚ) < (2 ^ (num.log2 + 1) : Nat) := mod_cast Nat.lt_log2_self
  have den_low : ((2 ^ den.log2 : Nat) : ℚ) ≤ den := mod_cast Nat.log2_self_le hd
  have den_high : (den : ℚ) ≤ (2 ^ (den.log2 + 1) : Nat) := mod_cast Nat.lt_log2_self.le
  have power (a b : Nat) : ((2 ^ a : Nat) : ℚ) / (2 ^ b : Nat) = 2 ^ ((a : Int) - b) := by
    rw [zpow_sub₀ two_ne_zero]
    norm_cast
  have low : (2 : ℚ) ^ ((num.log2 : Int) - (den.log2 + 1 : Nat)) ≤ num / den := by
    rw [← power]
    exact div_le_div₀ (by positivity) num_low (by positivity) den_high
  have high : (num : ℚ) / den < 2 ^ (((num.log2 + 1 : Nat) : Int) - den.log2) := by
    rw [← power]
    exact div_lt_div₀ num_high den_low (by positivity) (by positivity)
  push_cast at low high
  unfold exponentOf
  simp only [scaled_le_iff hd]
  split
  · next reached => exact ⟨reached, by convert high using 2; ring⟩
  · next below => exact ⟨by convert low using 2; ring, by rw [sub_add_cancel]; exact not_le.1 below⟩

/-! ## Rounding to an integer -/

/-- A quotient is its integer part and the remainder's share. -/
theorem div_eq_quotient_add (n : Nat) {d : Nat} (hd : d ≠ 0) :
    (n : ℚ) / d = (n / d : Nat) + ((n % d : Nat) : ℚ) / d := by
  have : (d : ℚ) ≠ 0 := by positivity
  field_simp
  exact_mod_cast (Nat.div_add_mod n d).symm

/-- The remainder's share is below 1. -/
theorem remainder_div_lt_one (n : Nat) {d : Nat} (hd : d ≠ 0) : ((n % d : Nat) : ℚ) / d < 1 := by
  rw [div_lt_one (by positivity)]
  exact_mod_cast Nat.mod_lt n (Nat.pos_of_ne_zero hd)

section Directions

variable (q : Nat) {t : ℚ} (nonneg : 0 ≤ t) (below : t < 1)
include nonneg below

/-- Dropping the part after the point rounds down. -/
theorem dropped_bounds : (q : ℚ) ≤ q + t ∧ (q : ℚ) + t < q + 1 := ⟨by linarith, by linarith⟩

/-- Adding 1 when there is a part after the point rounds up. -/
theorem raised_bounds (n : Nat) (hn : n = if t ≠ 0 then q + 1 else q) :
    (n : ℚ) - 1 < q + t ∧ (q : ℚ) + t ≤ n := by
  split at hn <;> subst hn
  · next some =>
    have pos : 0 < t := lt_of_le_of_ne nonneg some.symm
    push_cast
    exact ⟨by linarith, by linarith⟩
  · next none => exact ⟨by linarith, by linarith [not_ne_iff.1 none]⟩

/-- Adding 1 above a half, and at a half when the integer part is odd, rounds to nearest with ties to even. -/
theorem nearest_bounds (n : Nat) (hn : n = if 1 / 2 < t ∨ (t = 1 / 2 ∧ q % 2 = 1) then q + 1 else q) :
    |(q : ℚ) + t - n| ≤ 1 / 2 ∧ (|(q : ℚ) + t - n| = 1 / 2 → n % 2 = 0) := by
  split at hn <;> subst hn
  · next raised =>
    have up : (q : ℚ) + t - (q + 1 : Nat) = -(1 - t) := by push_cast; ring
    have half_le : 1 / 2 ≤ t := raised.elim le_of_lt fun tie => tie.1.ge
    rw [up, abs_neg, abs_of_pos (by linarith)]
    refine ⟨by linarith, fun tie => ?_⟩
    have odd : q % 2 = 1 := raised.elim (fun above => absurd above (by linarith)) And.right
    omega
  · next dropped =>
    obtain ⟨notAbove, notOdd⟩ := not_or.1 dropped
    rw [add_sub_cancel_left, abs_of_nonneg nonneg]
    exact ⟨not_lt.1 notAbove, fun tie => Nat.mod_two_ne_one.1 fun odd => notOdd ⟨tie, odd⟩⟩

end Directions

/-- `roundQuotient` rounds the quotient in the direction of the mode (R403). -/
theorem roundQuotient_rounds (rm : RoundingMode) (neg : Bool) (n : Nat) {d : Nat} (hd : d ≠ 0) :
    RoundsToInteger rm neg ((n : ℚ) / d) (roundQuotient rm neg n d) := by
  have den_pos : (0 : ℚ) < d := by positivity
  have nonneg : 0 ≤ ((n % d : Nat) : ℚ) / d := by positivity
  have below := remainder_div_lt_one n hd
  have zero_iff : n % d = 0 ↔ ((n % d : Nat) : ℚ) / d = 0 := by
    rw [div_eq_zero_iff, or_iff_left den_pos.ne', Nat.cast_eq_zero]
  have half_lt_iff : 2 * (n % d) > d ↔ 1 / 2 < ((n % d : Nat) : ℚ) / d := by
    rw [lt_div_iff₀ den_pos, one_div, inv_mul_lt_iff₀ two_pos]
    exact_mod_cast Iff.rfl
  have half_iff : 2 * (n % d) = d ↔ ((n % d : Nat) : ℚ) / d = 1 / 2 := by
    rw [div_eq_iff den_pos.ne', one_div, eq_inv_mul_iff_mul_eq₀ two_ne_zero]
    exact_mod_cast Iff.rfl
  rw [div_eq_quotient_add n hd]
  simp only [RoundsToInteger, roundQuotient, half_lt_iff, half_iff, ne_eq, zero_iff]
  cases rm
  case nearest => exact nearest_bounds _ nonneg below _ rfl
  case towardZero => exact dropped_bounds _ nonneg below
  case towardPlusInf =>
    cases neg
    · exact raised_bounds _ nonneg below _ (by simp)
    · exact dropped_bounds _ nonneg below
  case towardMinusInf =>
    cases neg
    · exact dropped_bounds _ nonneg below
    · exact raised_bounds _ nonneg below _ (by simp)

/-- A rounded quotient is the integer part, or one more when there is a remainder (R403). -/
theorem roundQuotient_cases (rm : RoundingMode) (neg : Bool) (n : Nat) {d : Nat} (hd : d ≠ 0) :
    roundQuotient rm neg n d = n / d ∨ (roundQuotient rm neg n d = n / d + 1 ∧ n % d ≠ 0) := by
  cases rm <;> simp only [roundQuotient]
  case towardZero => exact .inl trivial
  case nearest =>
    split
    · exact .inr ⟨rfl, by omega⟩
    · exact .inl rfl
  case towardPlusInf | towardMinusInf =>
    split
    · next raised => exact .inr ⟨rfl, raised.2⟩
    · exact .inl rfl

/-- Rounding changes the quotient exactly when there is a remainder (R403). -/
theorem mod_ne_zero_iff_roundQuotient_ne (rm : RoundingMode) (neg : Bool) (n : Nat) {d : Nat} (hd : d ≠ 0) :
    n % d ≠ 0 ↔ (roundQuotient rm neg n d : ℚ) ≠ n / d := by
  have den_pos : (0 : ℚ) < d := by positivity
  have below := remainder_div_lt_one n hd
  rw [div_eq_quotient_add n hd]
  rcases roundQuotient_cases rm neg n hd with same | ⟨raised, remainder⟩
  · simp [same, hd]
  · refine iff_of_true remainder ?_
    rw [raised]
    push_cast
    linarith

/-! ## Rounding to 24 bits -/

/-- An exact value's sign is its number's. -/
theorem Exact.Means.neg_eq {v : Exact} {q : ℚ} (h : v.Means q) : v.neg = decide (q < 0) := by
  obtain ⟨num, den, rfl⟩ := h
  have pos : 0 < (v.num : ℚ) / v.den := by positivity
  unfold Exact.value
  cases v.neg <;> simp [pos, pos.le]

/-- An exact value's fraction is its number's magnitude. -/
theorem Exact.Means.abs_eq {v : Exact} {q : ℚ} (h : v.Means q) : |q| = v.num / v.den := by
  obtain ⟨-, -, rfl⟩ := h
  have nonneg : 0 ≤ (v.num : ℚ) / v.den := by positivity
  unfold Exact.value
  cases v.neg <;> simp [abs_of_nonneg nonneg]

/-- `round24` rounds an exact value as R403 says. -/
theorem round24_roundsTo (rm : RoundingMode) {v : Exact} {q : ℚ} (h : v.Means q) :
    ∃ e n, RoundsTo rm q (round24 rm v) e n := by
  obtain ⟨num, den, -⟩ := id h
  let e := exponentOf v.num v.den
  let n := v.num * 2 ^ (23 - e).toNat
  let d := v.den * 2 ^ (e - 23).toNat
  let sig := roundQuotient rm v.neg n d
  have form : round24 rm v =
      if sig = 2 ^ 24 then ⟨v.neg, e + 1, 2 ^ 23, decide (n % d ≠ 0)⟩
      else ⟨v.neg, e, sig, decide (n % d ≠ 0)⟩ := rfl
  have neg : (round24 rm v).neg = v.neg := by rw [form]; split <;> rfl
  have inexact : (round24 rm v).inexact = decide (n % d ≠ 0) := by rw [form]; split <;> rfl
  have d_ne : d ≠ 0 := by positivity
  have scaled : (n : ℚ) / d = |q| * 2 ^ (23 - e) := by
    rw [h.abs_eq, two_zpow_eq, neg_sub, div_mul_div_comm]
    push_cast [n, d]
    rfl
  have unscaled : (sig : ℚ) * 2 ^ (e - 23) = |q| ↔ (sig : ℚ) = n / d := by
    rw [scaled, ← neg_sub e 23, zpow_neg, eq_mul_inv_iff_mul_eq₀ (by positivity)]
  obtain ⟨low, high⟩ := exponentOf_bounds num den
  rw [← h.abs_eq] at low high
  refine ⟨e, sig, neg.trans h.neg_eq, low, high, ?rounded, ?plain, ?carried, ?inexact⟩
  case rounded =>
    rw [neg, ← scaled]
    exact roundQuotient_rounds rm v.neg n d_ne
  case plain =>
    intro plain
    rw [form, if_neg plain]
    exact ⟨rfl, rfl⟩
  case carried =>
    intro carried
    rw [form, if_pos carried]
    exact ⟨rfl, rfl⟩
  case inexact =>
    rw [inexact]
    exact decide_eq_decide.2 ((mod_ne_zero_iff_roundQuotient_ne rm v.neg n d_ne).trans unscaled.symm.not)

/-- Settles O42: `round24` is right in all four directions. -/
theorem roundingDirections : Obligations.RoundingDirections := fun rm _ _ means => round24_roundsTo rm means

/-! ## What a rounded value is -/

/-- Rounding to an integer moves a number by less than 1 (R403). -/
theorem RoundsToInteger.near {rm : RoundingMode} {neg : Bool} {q : ℚ} {n : Nat}
    (h : RoundsToInteger rm neg q n) : |q - n| < 1 := by
  rw [abs_lt]
  cases rm <;> simp only [RoundsToInteger] at h
  case nearest =>
    obtain ⟨low, high⟩ := abs_le.1 h.1
    constructor <;> linarith
  case towardZero =>
    obtain ⟨low, high⟩ := h
    constructor <;> linarith
  case towardPlusInf | towardMinusInf =>
    split at h <;> obtain ⟨low, high⟩ := h <;> constructor <;> linarith

namespace RoundsTo

variable {rm : RoundingMode} {q : ℚ} {y : Rounded} {e : Int} {n : Nat}

/-- The number has 24 bits before its point where it is rounded (R403). -/
theorem scaled_bounds (h : RoundsTo rm q y e n) :
    (2 ^ 23 : ℚ) ≤ |q| * 2 ^ (23 - e) ∧ |q| * 2 ^ (23 - e) < 2 ^ 24 := by
  have pos : (0 : ℚ) < 2 ^ (23 - e) := by positivity
  constructor
  · calc (2 : ℚ) ^ 23 = 2 ^ e * 2 ^ (23 - e) := by rw [← zpow_add₀ two_ne_zero, add_sub_cancel]; rfl
      _ ≤ |q| * 2 ^ (23 - e) := by gcongr; exact h.atLeast
  · calc |q| * 2 ^ (23 - e) < 2 ^ (e + 1) * 2 ^ (23 - e) := by gcongr; exact h.below
      _ = 2 ^ (24 : Int) := by rw [← zpow_add₀ two_ne_zero]; congr 1; ring
      _ = 2 ^ 24 := rfl

/-- What it is rounded to has 24 bits, or is 2^24 (R403). -/
theorem integer_bounds (h : RoundsTo rm q y e n) : 2 ^ 23 ≤ n ∧ n ≤ 2 ^ 24 := by
  obtain ⟨low, high⟩ := h.scaled_bounds
  obtain ⟨left, right⟩ := abs_lt.1 h.rounded.near
  have above : ((2 ^ 23 : Nat) : ℚ) < (n + 1 : Nat) := by push_cast; linarith
  have below : (n : ℚ) < (2 ^ 24 + 1 : Nat) := by push_cast; linarith
  exact ⟨Nat.lt_succ_iff.1 (mod_cast above), Nat.lt_succ_iff.1 (mod_cast below)⟩

/-- The significand has 24 bits (R403). -/
theorem sig_bounds (h : RoundsTo rm q y e n) : 2 ^ 23 ≤ y.sig ∧ y.sig < 2 ^ 24 := by
  obtain ⟨low, high⟩ := h.integer_bounds
  by_cases carry : n = 2 ^ 24
  · rw [(h.carried carry).2]
    decide
  · rw [(h.plain carry).2]
    exact ⟨low, lt_of_le_of_ne high carry⟩

/-- The exponent is E, or E + 1 after a carry (R403). -/
theorem le_exponent (h : RoundsTo rm q y e n) : e ≤ y.exponent := by
  by_cases carry : n = 2 ^ 24
  · rw [(h.carried carry).1]
    omega
  · rw [(h.plain carry).1]

/-- Renormalizing 2^24 does not change the value (R403). -/
theorem magnitude_eq (h : RoundsTo rm q y e n) : (y.sig : ℚ) * 2 ^ (y.exponent - 23) = n * 2 ^ (e - 23) := by
  by_cases carry : n = 2 ^ 24
  · obtain ⟨exponent, sig⟩ := h.carried carry
    rw [exponent, sig, carry, add_sub_right_comm, zpow_add_one₀ two_ne_zero]
    push_cast
    ring
  · obtain ⟨exponent, sig⟩ := h.plain carry
    rw [exponent, sig]

/-- A number is its magnitude with the sign of its rounded value. -/
theorem signFactor_mul_abs (h : RoundsTo rm q y e n) : signFactor y.neg * |q| = q := by
  rw [h.sign]
  by_cases neg : q < 0
  · simp [neg, abs_of_neg]
  · simp [neg, abs_of_nonneg (not_lt.1 neg)]

/-- The result is inexact when rounding changed the number (R403). -/
theorem inexact_eq (h : RoundsTo rm q y e n) : y.inexact = decide (y.value ≠ q) := by
  have sign_ne : signFactor y.neg ≠ 0 := abs_ne_zero.1 (by simp)
  have value : y.value = signFactor y.neg * (n * 2 ^ (e - 23)) := congrArg (signFactor y.neg * ·) h.magnitude_eq
  have same_iff : y.value = q ↔ (n : ℚ) * 2 ^ (e - 23) = |q| := by
    rw [value, ← mul_right_inj' sign_ne (c := |q|), h.signFactor_mul_abs]
  rw [h.inexact]
  exact decide_eq_decide.2 same_iff.symm.not

end RoundsTo

/-! ## The word of a rounded value -/

section Pack

variable {y : Rounded}

theorem fpSign_packRounded (y : Rounded) : fpSign (packRounded y) = y.neg := by
  rw [fpSign_eq, packRounded, BitVec.getLsbD_append, BitVec.getLsbD_append]
  simp

theorem fpFrac_packRounded (y : Rounded) : fpFrac (packRounded y) = BitVec.ofNat 23 y.sig :=
  BitVec.extractLsb'_append_eq_right

theorem fpExp_packRounded (y : Rounded) : fpExp (packRounded y) = BitVec.ofInt 8 (y.exponent + 127) := by
  rw [fpExp, packRounded, BitVec.extractLsb'_append_eq_of_le (by decide)]
  exact BitVec.extractLsb'_append_eq_right

variable (low : -126 ≤ y.exponent) (high : y.exponent ≤ 127)
include low high

/-- The exponent field of the word (R404). -/
theorem fpExp_packRounded_toNat : (fpExp (packRounded y)).toNat = (y.exponent + 127).toNat := by
  rw [fpExp_packRounded, BitVec.toNat_ofInt, Int.emod_eq_of_lt] <;> omega

theorem fpExp_packRounded_ne_zero : fpExp (packRounded y) ≠ 0 := fun h => by
  have zero : (fpExp (packRounded y)).toNat = 0 := congrArg BitVec.toNat h
  rw [fpExp_packRounded_toNat low high] at zero
  omega

theorem fpExp_packRounded_ne_top : fpExp (packRounded y) ≠ 255 := fun h => by
  have top : (fpExp (packRounded y)).toNat = 255 := congrArg BitVec.toNat h
  rw [fpExp_packRounded_toNat low high] at top
  omega

/-- The word is normalized when the exponent is in the normalized range (R404). -/
theorem fpClass_packRounded : fpClass (packRounded y) = .normalized :=
  fpClass_eq_normalized (fpExp_packRounded_ne_zero low high) (fpExp_packRounded_ne_top low high)

/-- The word has the rounded value (R404). -/
theorem fpValue_packRounded (sig_low : 2 ^ 23 ≤ y.sig) (sig_high : y.sig < 2 ^ 24) :
    fpValue (packRounded y) = y.value := by
  have frac : 2 ^ 23 + (fpFrac (packRounded y)).toNat = y.sig := by
    rw [fpFrac_packRounded, BitVec.toNat_ofNat]
    omega
  have magnitude : fpMagnitude (packRounded y) = y.sig * 2 ^ (y.exponent + 126).toNat := by
    rw [fpMagnitude, if_neg (fpExp_packRounded_ne_zero low high), frac, fpExp_packRounded_toNat low high]
    congr 2
    omega
  have power : (2 : ℚ) ^ (y.exponent + 126).toNat = 2 ^ (y.exponent - 23) * 2 ^ 149 := by
    rw [← zpow_natCast, ← zpow_natCast, ← zpow_add₀ two_ne_zero]
    congr 1
    omega
  rw [fpValue_eq, fpSign_packRounded, magnitude, Nat.cast_mul, Nat.cast_pow, Nat.cast_ofNat, power, ← mul_assoc,
    mul_div_assoc, div_self (by positivity), mul_one]
  rfl

end Pack

/-! ## Finishing a result -/

/-- A result is tiny when its exact value is below 2^-126 (R411, log 26). -/
theorem isTiny_iff {v : Exact} {q : ℚ} (h : v.Means q) : isTiny v = true ↔ |q| < 1 / 2 ^ 126 := by
  have den_pos : (0 : ℚ) < v.den := by have := h.2.1; positivity
  rw [isTiny, decide_eq_true_iff, h.abs_eq, div_lt_div_iff₀ den_pos (by positivity), one_mul]
  exact_mod_cast Iff.rfl

/-- A tiny result underflows to a zero (R411). -/
theorem finish_of_tiny {f : Fpsr} {z : Bool} {v : Exact} (tiny : isTiny v = true) :
    finish f z v = { detected := underflowDetected f, value := fpZero z } := if_pos tiny

section Finish

variable {f : Fpsr} {z : Bool} {v : Exact} (notTiny : isTiny v ≠ true)
include notTiny

/-- A result that rounds beyond the normalized range overflows (R410). -/
theorem finish_of_overflow (beyond : 127 < (round24 f.rm v).exponent) :
    finish f z v = { detected := overflowDetected f, value := overflowValue f.rm (round24 f.rm v).neg } :=
  (if_neg notTiny).trans (if_pos beyond)

/-- Any other result is its rounded value (R404). -/
theorem finish_of_normalized (within : (round24 f.rm v).exponent ≤ 127) :
    finish f z v = { detected := { ixct := (round24 f.rm v).inexact }, value := packRounded (round24 f.rm v) } :=
  (if_neg notTiny).trans (if_neg (not_lt.2 within))

end Finish

/-- From 2^-126 on, the exponent is in the normalized range or above it (R404). -/
theorem RoundsTo.neg_126_le_exponent {rm : RoundingMode} {q : ℚ} {y : Rounded} {e : Int} {n : Nat}
    (h : RoundsTo rm q y e n) (notTiny : 1 / 2 ^ 126 ≤ |q|) : -126 ≤ y.exponent := by
  have power : (2 : ℚ) ^ (-126 : Int) < 2 ^ (e + 1) := lt_of_le_of_lt (by simpa [zpow_neg] using notTiny) h.below
  rw [zpow_lt_zpow_iff_right₀ one_lt_two] at power
  have := h.le_exponent
  omega

/-- Settles O43: a tiny result underflows, and any other is rounded and judged by its exponent. -/
theorem finishResults : Obligations.FinishResults := by
  intro f z v q means r
  refine ⟨fun tiny => ?tiny, fun notTiny => ?rounded⟩
  case tiny =>
    have r_eq : r = _ := finish_of_tiny ((isTiny_iff means).2 tiny)
    rw [r_eq]
    refine ⟨rfl, ?_⟩
    cases z
    · exact .inl rfl
    · exact .inr rfl
  case rounded =>
    have notTiny' : isTiny v ≠ true := fun tiny => notTiny.not_gt ((isTiny_iff means).1 tiny)
    obtain ⟨e, n, rounds⟩ := round24_roundsTo f.rm means
    refine ⟨_, e, n, rounds, fun beyond => ?_, fun within => ?_⟩
    · have r_eq : r = _ := finish_of_overflow notTiny' beyond
      rw [r_eq]
      refine ⟨rfl, ?_⟩
      cases f.rm <;> cases (round24 _ v).neg <;> rfl
    · have r_eq : r = _ := finish_of_normalized notTiny' within
      have low := rounds.neg_126_le_exponent notTiny
      obtain ⟨sig_low, sig_high⟩ := rounds.sig_bounds
      rw [r_eq, rounds.inexact_eq]
      exact ⟨rfl, fpClass_packRounded low within, fpValue_packRounded low within sig_low sig_high⟩

end Sys2Proof.Machine
end

section
/-! PROOFS, part 3 of the floating-point arithmetic: the two-operand shape and its case tables
(spec/47_fp_common_arith.md R402, R413, R414, R416, R417, R420 to R423, R427). One lemma for each row of the shape;
the cells of the tables are read off their definitions once the classes of the operands are known. -/

namespace Sys2Proof.Machine

/-! ## Which NaN results -/

theorem nan2_of_snan_right {a b : Word} (hb : fpClass b = .snan) : nan2 a b = quiet b := by
  by_cases ha : fpClass a = .snan <;> simp [nan2, ha, hb]

theorem nan2_of_snan_left {a b : Word} (ha : fpClass a = .snan) (hb : fpClass b ≠ .snan) :
    nan2 a b = quiet a := by
  simp [nan2, ha, hb]

theorem nan2_of_qnan_right {a b : Word} (ha : fpClass a ≠ .snan) (hb : fpClass b = .qnan) : nan2 a b = b := by
  simp [nan2, ha, hb]

theorem nan2_of_qnan_left {a b : Word} (ha : fpClass a = .qnan) (hb : IsNumber b) : nan2 a b = a := by
  simp [nan2, ha, hb.1, hb.2]

/-! ## The two-operand shape, row by row -/

section TwoOperand

variable {table : Word → Word → TableCell} {f : Fpsr} {z : Bool} {a b : Word}

/-- An SNaN is invalid (R417). -/
theorem fpTwoOperand_of_snan (h : fpClass a = .snan ∨ fpClass b = .snan) :
    fpTwoOperand table f z a b = fpInvalid (nan2 a b) :=
  if_pos h

/-- A QNaN is not (R417). -/
theorem fpTwoOperand_of_qnan (ha : fpClass a ≠ .snan) (hb : fpClass b ≠ .snan)
    (h : fpClass a = .qnan ∨ fpClass b = .qnan) : fpTwoOperand table f z a b = fpPlain (nan2 a b) :=
  (if_neg (not_or.2 ⟨ha, hb⟩)).trans (if_pos h)

section Numbers

variable (ha : IsNumber a) (hb : IsNumber b)
include ha hb

/-- Then a denormalized operand is unimplemented when DN = 0 (R402, R417). -/
theorem fpTwoOperand_of_unimplemented
    (h : unimplementedOperand f.dn a = true ∨ unimplementedOperand f.dn b = true) :
    fpTwoOperand table f z a b = fpUnimplemented :=
  (if_neg (not_or.2 ⟨ha.1, hb.1⟩)).trans ((if_neg (not_or.2 ⟨ha.2, hb.2⟩)).trans (if_pos h))

/-- Then the table's cell of the operands says what results (R427). -/
theorem fpTwoOperand_of_implemented (ia : unimplementedOperand f.dn a ≠ true)
    (ib : unimplementedOperand f.dn b ≠ true) :
    fpTwoOperand table f z a b = cellResult f z a b (table (flushOperand f.dn a) (flushOperand f.dn b)) :=
  (if_neg (not_or.2 ⟨ha.1, hb.1⟩)).trans
    ((if_neg (not_or.2 ⟨ha.2, hb.2⟩)).trans (if_neg (not_or.2 ⟨ia, ib⟩)))

end Numbers

/-- With DN = 1 nothing is unimplemented (R402). -/
theorem implemented_of_dn {dn : Bool} (h : dn = true) (x : Word) : unimplementedOperand dn x ≠ true := by
  simp [unimplementedOperand_iff, h]

/-- Only a denormalized operand can be unimplemented (R402). -/
theorem implemented_of_ne {x : Word} (h : fpClass x ≠ .denormalized) (dn : Bool) :
    unimplementedOperand dn x ≠ true := by
  simp [unimplementedOperand_iff, h]

/-- Of the operands themselves a cell's result has no more than the signs (R427). -/
theorem cellResult_congr {a' b' : Word} (ha : fpSign a = fpSign a') (hb : fpSign b = fpSign b') (c : TableCell) :
    cellResult f z a b c = cellResult f z a' b' c := by
  cases c <;> simp [cellResult, signXor, ha, hb]

end TwoOperand

theorem isNumber_of_denormalized {x : Word} (h : fpClass x = .denormalized) : IsNumber x := by simp [IsNumber, h]
theorem isNumber_of_normalized {x : Word} (h : fpClass x = .normalized) : IsNumber x := by simp [IsNumber, h]
theorem isNumber_fpZero (neg : Bool) : IsNumber (fpZero neg) := by simp [IsNumber]
theorem isNumber_fpInfinity (neg : Bool) : IsNumber (fpInfinity neg) := by simp [IsNumber]

/-- With DN = 1 a denormalized operand counts as the zero of its sign, on either side (R402). -/
theorem flushOperand_fpZero_sign {dn : Bool} {x : Word} (hd : dn = true) (hx : fpClass x = .denormalized) :
    flushOperand dn (fpZero (fpSign x)) = flushOperand dn x := by
  rw [hd, flushOperand_of_denormalized hx, flushOperand_of_ne (by simp)]

/-- Settles O39: each clause is a row of the two-operand shape. -/
theorem fpOperandClasses : Obligations.FpOperandClasses := by
  intro table f z a b r isNumber zero
  have zero_eq (x : Word) : zero x = fpZero (fpSign x) := and_signBit x
  refine ⟨fun hb => ?snanRight, fun ha hb => ?snanLeft, fun ha hb => ?qnanRight, fun ha hb => ?qnanLeft,
    fun ha hb hd denormalized => ?unimplemented, fun hd ha hb => ?zeroLeft, fun hd hb ha => ?zeroRight⟩
  case snanRight =>
    exact (fpTwoOperand_of_snan (.inr hb)).trans (congrArg fpInvalid (nan2_of_snan_right hb))
  case snanLeft =>
    exact (fpTwoOperand_of_snan (.inl ha)).trans (congrArg fpInvalid (nan2_of_snan_left ha hb))
  case qnanRight =>
    exact (fpTwoOperand_of_qnan ha (by simp [hb]) (.inr hb)).trans (congrArg fpPlain (nan2_of_qnan_right ha hb))
  case qnanLeft =>
    exact (fpTwoOperand_of_qnan (by simp [ha]) hb.1 (.inl ha)).trans (congrArg fpPlain (nan2_of_qnan_left ha hb))
  case unimplemented =>
    have unimplemented : unimplementedOperand f.dn a = true ∨ unimplementedOperand f.dn b = true := by
      simpa [unimplementedOperand_iff, hd] using denormalized
    exact congrArg FpResult.detected (fpTwoOperand_of_unimplemented ha hb unimplemented)
  case zeroLeft =>
    have implemented := implemented_of_dn hd
    rw [zero_eq, fpTwoOperand_of_implemented (isNumber_fpZero _) hb (implemented _) (implemented _),
      flushOperand_fpZero_sign hd ha]
    exact (fpTwoOperand_of_implemented (isNumber_of_denormalized ha) hb (implemented _) (implemented _)).trans
      (cellResult_congr (by simp) rfl _)
  case zeroRight =>
    have implemented := implemented_of_dn hd
    rw [zero_eq, fpTwoOperand_of_implemented ha (isNumber_fpZero _) (implemented _) (implemented _),
      flushOperand_fpZero_sign hd hb]
    exact (fpTwoOperand_of_implemented ha (isNumber_of_denormalized hb) (implemented _) (implemented _)).trans
      (cellResult_congr rfl (by simp) _)

/-! ## Cells with a zero or an infinity -/

section SpecialCells

variable {n : Word} (hn : fpClass n = .normalized) (p q : Bool)

/-- The sign of an exact zero sum, written as a word (R420, log 43). -/
theorem zeroSum_eq (rm : RoundingMode) : zeroSum rm = if rm = .towardMinusInf then 0x80000000 else 0 := by
  cases rm <;> rfl

theorem addTable_zero_zero (rm : RoundingMode) :
    addTable rm (fpZero p) (fpZero q) = .special (if p = q then fpZero p else zeroSum rm) := by
  simp [addTable, apply_ite TableCell.special]

theorem addTable_infinity_infinity (rm : RoundingMode) :
    addTable rm (fpInfinity p) (fpInfinity q) = if p = q then .special (fpInfinity p) else .ivld := by
  simp [addTable]

theorem addTable_zero_infinity (rm : RoundingMode) :
    addTable rm (fpZero p) (fpInfinity q) = .special (fpInfinity q) ∧
      addTable rm (fpInfinity p) (fpZero q) = .special (fpInfinity p) := by
  simp [addTable]

theorem mulTable_zeros_infinities :
    mulTable (fpZero p) (fpZero q) = .special (fpZero (p ^^ q)) ∧
      mulTable (fpInfinity p) (fpInfinity q) = .special (fpInfinity (p ^^ q)) ∧
      mulTable (fpZero p) (fpInfinity q) = .ivld ∧ mulTable (fpInfinity p) (fpZero q) = .ivld := by
  simp [mulTable, signXor]

theorem divTable_zeros_infinities :
    divTable (fpZero p) (fpZero q) = .ivld ∧ divTable (fpInfinity p) (fpInfinity q) = .ivld ∧
      divTable (fpZero p) (fpInfinity q) = .special (fpZero (p ^^ q)) ∧
      divTable (fpInfinity p) (fpZero q) = .special (fpInfinity (p ^^ q)) := by
  simp [divTable, signXor]

include hn

/-- A normalized number and a zero or an infinity, added (R420). -/
theorem addTable_normalized_special (rm : RoundingMode) :
    addTable rm n (fpZero p) = .special n ∧ addTable rm (fpZero p) n = .special n ∧
      addTable rm n (fpInfinity p) = .special (fpInfinity p) ∧
      addTable rm (fpInfinity p) n = .special (fpInfinity p) := by
  simp [addTable, hn]

/-- A normalized number and a zero or an infinity, multiplied (R422). -/
theorem mulTable_normalized_special :
    mulTable n (fpZero p) = .special (fpZero (fpSign n ^^ p)) ∧
      mulTable (fpZero p) n = .special (fpZero (fpSign n ^^ p)) ∧
      mulTable n (fpInfinity p) = .special (fpInfinity (fpSign n ^^ p)) ∧
      mulTable (fpInfinity p) n = .special (fpInfinity (fpSign n ^^ p)) := by
  simp [mulTable, signXor, hn, Bool.xor_comm p]

/-- A normalized number and a zero or an infinity, divided (R413, R423). -/
theorem divTable_normalized_special :
    divTable n (fpZero p) = .div0 ∧ divTable (fpZero p) n = .special (fpZero (fpSign n ^^ p)) ∧
      divTable n (fpInfinity p) = .special (fpZero (fpSign n ^^ p)) ∧
      divTable (fpInfinity p) n = .special (fpInfinity (fpSign n ^^ p)) := by
  simp [divTable, signXor, hn, Bool.xor_comm p]

end SpecialCells

/-- On operands that are neither NaN nor denormalized the table's cell says what results (R427). -/
theorem fpTwoOperand_of_proper {table : Word → Word → TableCell} {f : Fpsr} {z : Bool} {a b : Word}
    (ha : IsNumber a) (hb : IsNumber b) (da : fpClass a ≠ .denormalized) (db : fpClass b ≠ .denormalized) :
    fpTwoOperand table f z a b = cellResult f z a b (table a b) := by
  rw [fpTwoOperand_of_implemented ha hb (implemented_of_ne da _) (implemented_of_ne db _),
    flushOperand_of_ne da, flushOperand_of_ne db]

/-- Settles O40: the cells, and what a division by zero and an invalid cell give. -/
theorem fpSpecialCells : Obligations.FpSpecialCells := by
  intro rm n m hn hm zeroOf infOf sumZero p q x
  have x_eq : (fpSign n ^^ p) = x := congrArg (· ^^ p) (fpSign_eq n)
  have sumZero_eq : zeroSum rm = sumZero := zeroSum_eq rm
  obtain ⟨add_nz, add_zn, add_ni, add_in⟩ := addTable_normalized_special hn p rm
  obtain ⟨add_zi, add_iz⟩ := addTable_zero_infinity p q rm
  obtain ⟨mul_nz, mul_zn, mul_ni, mul_in⟩ := x_eq ▸ mulTable_normalized_special hn p
  obtain ⟨div_nz, div_zn, div_ni, div_in⟩ := x_eq ▸ divTable_normalized_special hn p
  refine ⟨⟨add_nz, add_zn, add_ni, add_in, sumZero_eq ▸ addTable_zero_zero p q rm, add_zi, add_iz,
      addTable_infinity_infinity p q rm⟩,
    fun _ _ => rfl, ⟨mul_nz, mul_zn, mul_ni, mul_in, mulTable_zeros_infinities p q⟩,
    ⟨div_nz, div_zn, div_ni, div_in, divTable_zeros_infinities p q⟩, fun f z => ⟨?div0, ?ivld⟩⟩
  case div0 =>
    have sign : signXor n (fpZero p) = x := by rw [← x_eq, signXor, fpSign_fpZero]
    calc fpTwoOperand divTable f z n (fpZero p)
        = cellResult f z n (fpZero p) .div0 := by
          rw [fpTwoOperand_of_proper (isNumber_of_normalized hn) (isNumber_fpZero p) (by simp [hn]) (by simp),
            div_nz]
      _ = { detected := { div0 := true }, value := fpInfinity x } := by rw [cellResult, sign]
  case ivld =>
    have cell : mulTable (fpInfinity p) (fpZero q) = .ivld := (mulTable_zeros_infinities p q).2.2.2
    calc fpTwoOperand mulTable f z (fpInfinity p) (fpZero q)
        = cellResult f z (fpInfinity p) (fpZero q) .ivld := by
          rw [fpTwoOperand_of_proper (isNumber_fpInfinity p) (isNumber_fpZero q) (by simp) (by simp), cell]
      _ = { detected := { ivld := true }, value := 0x7FFFFFFF } := rfl

/-! ## Exact cells -/

/-- The fraction of a sum in units: an integer that is not 0 over a denominator. -/
theorem means_of_int {x : Int} {d : Nat} (hx : x ≠ 0) (hd : d ≠ 0) :
    Exact.Means { neg := decide (x < 0), num := x.natAbs, den := d } ((x : ℚ) / d) := by
  refine ⟨Int.natAbs_ne_zero.2 hx, hd, ?_⟩
  unfold Exact.value
  rw [Nat.cast_natAbs]
  by_cases neg : x < 0
  · simp [neg, abs_of_neg, neg_div]
  · simp [neg, abs_of_nonneg (not_lt.1 neg)]

section ExactCells

variable {a b : Word} (ha : fpClass a = .normalized) (hb : fpClass b = .normalized)
include ha hb

/-- The sum of two normalized numbers is exact, or a zero with the sign that RM gives (R420). -/
theorem addTable_exact (rm : RoundingMode) :
    if fpValue a + fpValue b = 0 then addTable rm a b = .special (zeroSum rm)
    else ∃ v : Exact, addTable rm a b = .exact v ∧ v.Means (fpValue a + fpValue b) := by
  have value : fpValue a + fpValue b = ((fpUnits a + fpUnits b : Int) : ℚ) / (2 ^ 149 : Nat) := by
    rw [fpValue_eq_fpUnits, fpValue_eq_fpUnits, ← add_div]
    push_cast
    rfl
  have zero_iff : fpValue a + fpValue b = 0 ↔ fpUnits a + fpUnits b = 0 := by
    rw [value, div_eq_zero_iff, or_iff_left (by positivity), Int.cast_eq_zero]
  split
  · next zero => simp [addTable, ha, hb, zero_iff.1 zero]
  · next nonzero =>
    have units := zero_iff.not.1 nonzero
    exact ⟨_, by simp only [addTable, ha, hb, if_neg units], value ▸ means_of_int units (by positivity)⟩

/-- Two normalized numbers multiplied (R422). -/
theorem mulTable_normalized : mulTable a b =
    .exact { neg := signXor a b, num := fpMagnitude a * fpMagnitude b, den := 2 ^ 298 } := by
  simp only [mulTable, ha, hb]

/-- Two normalized numbers divided (R423). -/
theorem divTable_normalized : divTable a b =
    .exact { neg := signXor a b, num := fpMagnitude a, den := fpMagnitude b } := by
  simp only [divTable, ha, hb]

/-- The product of two normalized numbers is exact (R422). -/
theorem mulTable_exact : ∃ v : Exact, mulTable a b = .exact v ∧ v.Means (fpValue a * fpValue b) := by
  have a_ne := fpMagnitude_ne_zero (x := a) (by simp [ha])
  have b_ne := fpMagnitude_ne_zero (x := b) (by simp [hb])
  refine ⟨_, mulTable_normalized ha hb, Nat.mul_ne_zero a_ne b_ne, by positivity, ?_⟩
  have den : (2 : ℚ) ^ 298 = 2 ^ 149 * 2 ^ 149 := pow_add 2 149 149
  calc signFactor (signXor a b) * (((fpMagnitude a * fpMagnitude b : Nat) : ℚ) / (2 ^ 298 : Nat))
      = fpValue a * fpValue b := by
        rw [fpValue_eq, fpValue_eq, signXor, signFactor_xor, Nat.cast_mul, Nat.cast_pow, Nat.cast_ofNat, den,
          mul_mul_mul_comm, div_mul_div_comm]

/-- The quotient of two normalized numbers is exact (R423). -/
theorem divTable_exact : ∃ v : Exact, divTable a b = .exact v ∧ v.Means (fpValue a / fpValue b) := by
  have a_ne := fpMagnitude_ne_zero (x := a) (by simp [ha])
  have b_ne := fpMagnitude_ne_zero (x := b) (by simp [hb])
  refine ⟨_, divTable_normalized ha hb, a_ne, b_ne, ?_⟩
  have inv : (signFactor (fpSign b))⁻¹ = signFactor (fpSign b) := by cases fpSign b <;> norm_num
  calc signFactor (signXor a b) * ((fpMagnitude a : ℚ) / fpMagnitude b)
      = fpValue a / fpValue b := by
        rw [fpValue_eq, fpValue_eq, signXor, signFactor_xor, mul_div_mul_comm,
          div_div_div_cancel_right₀ (by positivity), div_eq_mul_inv (signFactor _), inv]

end ExactCells

/-- Settles O41: a difference is the sum with the negated operand. -/
theorem fpExactCells : Obligations.FpExactCells := by
  intro rm a b ha hb zero
  have zero_eq : zeroSum rm = zero := zeroSum_eq rm
  have sum := addTable_exact ha hb rm
  have difference := addTable_exact ha (b := fpNegate b) (by rw [fpClass_fpNegate, hb]) rm
  rw [fpValue_fpNegate, ← sub_eq_add_neg] at difference
  rw [zero_eq] at sum difference
  exact ⟨sum, difference, mulTable_exact ha hb, divTable_exact ha hb⟩

end Sys2Proof.Machine
end

section
/-! PROOFS, part 4 of the floating-point arithmetic: FMADD and FMSUB (spec/47_fp_common_arith.md R424 to R429).
Step 1 is compared once with FMUL rounded toward zero, and step 2 with FADD of the old Rdest; the clauses of the
statement are then the rows of step 2. -/

namespace Sys2Proof.Machine

/-! ## Words that are not denormalized -/

theorem ne_denormalized_of_not_isNumber {x : Word} (h : ¬ IsNumber x) : fpClass x ≠ .denormalized :=
  fun denormalized => h (isNumber_of_denormalized denormalized)

/-- An SNaN made quiet is still a NaN (R416). -/
theorem quiet_ne_denormalized {x : Word} (h : fpClass x = .snan) : fpClass (quiet x) ≠ .denormalized := by
  intro denormalized
  have top : fpExp x = 255 := fpExp_of_not_isNumber fun number => number.1 h
  have zero : fpExp x = 0 := fpExp_quiet x ▸ fpExp_of_denormalized denormalized
  exact absurd (top.symm.trans zero) (by decide)

/-- The NaN that results is not denormalized (R416). -/
theorem nan2_ne_denormalized {a b : Word} (h : ¬ (IsNumber a ∧ IsNumber b)) :
    fpClass (nan2 a b) ≠ .denormalized := by
  unfold nan2
  split_ifs with both left right qnan
  · exact quiet_ne_denormalized both.2
  · exact quiet_ne_denormalized left
  · exact quiet_ne_denormalized right
  · simp [qnan]
  · exact ne_denormalized_of_not_isNumber fun number => h ⟨number, right, qnan⟩

theorem overflowValue_cases (rm : RoundingMode) (neg : Bool) :
    overflowValue rm neg = fpMax neg ∨ overflowValue rm neg = fpInfinity neg := by
  cases rm <;> cases neg <;> simp [overflowValue]

/-- The immediate of an overflow is a number that is not denormalized (R410). -/
theorem overflowValue_proper (rm : RoundingMode) (neg : Bool) :
    IsNumber (overflowValue rm neg) ∧ fpClass (overflowValue rm neg) ≠ .denormalized := by
  rcases overflowValue_cases rm neg with h | h <;> simp [h, IsNumber]

/-! ## Step 1 is FMUL rounded toward zero -/

/-- A cell of FMUL's table: a signed zero or infinity, invalid, or exact (R422). -/
theorem mulTable_cases (a b : Word) :
    (∃ neg, mulTable a b = .special (fpZero neg)) ∨ (∃ neg, mulTable a b = .special (fpInfinity neg)) ∨
      mulTable a b = .ivld ∨ ∃ v, mulTable a b = .exact v ∧ v.num ≠ 0 ∧ v.den ≠ 0 := by
  unfold mulTable
  split
  case h_1 | h_2 => exact .inr (.inr (.inl rfl))
  case h_3 | h_4 => exact .inr (.inl ⟨_, rfl⟩)
  case h_5 | h_6 => exact .inl ⟨_, rfl⟩
  case h_7 =>
    have a_ne : fpMagnitude a ≠ 0 := fpMagnitude_ne_zero ‹fpClass a = .zero → False›
    have b_ne : fpMagnitude b ≠ 0 := fpMagnitude_ne_zero ‹fpClass b = .zero → False›
    exact .inr (.inr (.inr ⟨_, rfl, Nat.mul_ne_zero a_ne b_ne, by positivity⟩))

/-- Step 1 `p` of a multiply-add and FMUL rounded toward zero, with result `m`, detect the same; the product is
FMUL's result, but an overflow's immediate follows RM (R428, R429). -/
structure StepAgrees (f : Fpsr) (p : ProductStep) (m : FpResult) : Prop where
  detected : p.detected = m.detected
  overflowed : p.overflowed = m.detected.ovf
  product : m.detected.ovf = false → p.product = m.value
  immediate : m.detected.ovf = true → p.product = overflowValue f.rm (m.value.getLsbD 31)
  number : m.detected.ovf = true → IsNumber m.value
  settled : fpClass m.value ≠ .denormalized

/-- A step 1 that is not rounded is FMUL's result itself. -/
theorem stepAgrees_plainProduct (f : Fpsr) {m : FpResult} (noOverflow : m.detected.ovf = false)
    (settled : fpClass m.value ≠ .denormalized) : StepAgrees f (plainProduct m) m where
  detected := rfl
  overflowed := noOverflow.symm
  product _ := rfl
  immediate overflow := absurd overflow (by simp [noOverflow])
  number overflow := absurd overflow (by simp [noOverflow])
  settled := settled

/-- An exact product is finished as FMUL rounded toward zero finishes it, but for the immediate. -/
theorem stepAgrees_finishProduct (f : Fpsr) (z : Bool) {v : Exact} (num : v.num ≠ 0) (den : v.den ≠ 0) :
    StepAgrees f (finishProduct f z v) (finish { f with rm := .towardZero } z v) := by
  by_cases tiny : isTiny v = true
  · rw [finish_of_tiny tiny, finishProduct, if_pos tiny]
    exact ⟨rfl, rfl, fun _ => rfl, nofun, nofun, by simp⟩
  have means : v.Means v.value := ⟨num, den, rfl⟩
  rw [finishProduct, if_neg tiny]
  by_cases beyond : 127 < (round24 .towardZero v).exponent
  · rw [finish_of_overflow tiny beyond, if_pos beyond]
    obtain ⟨number, settled⟩ := overflowValue_proper .towardZero (round24 .towardZero v).neg
    refine ⟨rfl, rfl, nofun, fun _ => ?immediate, fun _ => number, settled⟩
    case immediate => exact congrArg (overflowValue f.rm) ((fpSign_fpMax _).symm.trans (fpSign_eq _))
  · have within := not_lt.1 beyond
    rw [finish_of_normalized tiny within, if_neg beyond]
    refine ⟨rfl, rfl, fun _ => rfl, nofun, nofun, ?settled⟩
    case settled =>
      obtain ⟨e, n, rounds⟩ := round24_roundsTo .towardZero means
      have low := rounds.neg_126_le_exponent (not_lt.1 ((isTiny_iff means).not.1 tiny))
      simp [fpClass_packRounded low within]

/-- Step 1 is FMUL rounded toward zero, but for the immediate of an overflow (R428, R429). -/
theorem stepAgrees_productStep (f : Fpsr) (z : Bool) (a b : Word) :
    StepAgrees f (productStep f z a b) (fpTwoOperand mulTable { f with rm := .towardZero } z a b) := by
  let truncating : Fpsr := { f with rm := .towardZero }
  unfold productStep
  by_cases snan : fpClass a = .snan ∨ fpClass b = .snan
  · rw [fpTwoOperand_of_snan snan, if_pos snan]
    exact stepAgrees_plainProduct f rfl (nan2_ne_denormalized fun ⟨ha, hb⟩ => snan.elim ha.1 hb.1)
  obtain ⟨a_snan, b_snan⟩ := not_or.1 snan
  rw [if_neg snan]
  by_cases qnan : fpClass a = .qnan ∨ fpClass b = .qnan
  · rw [fpTwoOperand_of_qnan a_snan b_snan qnan, if_pos qnan]
    exact stepAgrees_plainProduct f rfl (nan2_ne_denormalized fun ⟨ha, hb⟩ => qnan.elim ha.2 hb.2)
  obtain ⟨a_qnan, b_qnan⟩ := not_or.1 qnan
  have ha : IsNumber a := ⟨a_snan, a_qnan⟩
  have hb : IsNumber b := ⟨b_snan, b_qnan⟩
  rw [if_neg qnan]
  by_cases unimplemented : unimplementedOperand f.dn a = true ∨ unimplementedOperand f.dn b = true
  · rw [if_pos unimplemented, fpTwoOperand_of_unimplemented (f := truncating) ha hb unimplemented]
    exact stepAgrees_plainProduct f rfl (by decide)
  obtain ⟨ia, ib⟩ := not_or.1 unimplemented
  rw [if_neg unimplemented, fpTwoOperand_of_implemented (f := truncating) ha hb ia ib]
  rcases mulTable_cases (flushOperand f.dn a) (flushOperand f.dn b) with
    ⟨neg, cell⟩ | ⟨neg, cell⟩ | cell | ⟨v, cell, num, den⟩ <;> rw [cell]
  · exact stepAgrees_plainProduct f rfl (by simp [fpPlain])
  · exact stepAgrees_plainProduct f rfl (by simp [fpPlain])
  · exact stepAgrees_plainProduct f rfl (by decide)
  · exact stepAgrees_finishProduct f z num den

/-! ## Step 2, row by row -/

/-- The product as it is added: negated for FMSUB (R425). -/
def addedProduct (sub : Bool) (v : Word) : Word := if sub then fpNegate v else v

@[simp] theorem fpClass_addedProduct (sub : Bool) (v : Word) : fpClass (addedProduct sub v) = fpClass v := by
  cases sub <;> simp [addedProduct]

section Addend

variable {sub : Bool} {f : Fpsr} {z : Bool} {c : Word} {p : ProductStep}

theorem addendStep_of_qnan (h : fpClass c = .qnan) : addendStep sub f z c p = fpPlain c := if_pos h

theorem addendStep_of_snan (h : fpClass c = .snan) : addendStep sub f z c p = fpInvalid (quiet c) := by
  simp [addendStep, h]

/-- Step 2 on numbers: an overflow's immediate, or a sum (R428, R429). -/
theorem addendNumberStep_eq : addendNumberStep sub f z c p =
    if p.overflowed = true ∧ fpClass (flushOperand f.dn c) ≠ .infinity then
      fpPlain (addedProduct sub p.product)
    else cellResult f z (flushOperand f.dn c) (addedProduct sub p.product)
      (addTable f.rm (flushOperand f.dn c) (addedProduct sub p.product)) := rfl

section Number

variable (hc : IsNumber c)
include hc

theorem addendStep_of_nan_product (hp : ¬ IsNumber p.product) : addendStep sub f z c p = fpPlain p.product := by
  have nan : isNan p.product = true := by simpa [← isNan_eq_false_iff] using hp
  simp [addendStep, hc.1, hc.2, nan]

variable (hp : IsNumber p.product)
include hp

theorem addendStep_of_unimplemented (h : unimplementedOperand f.dn c = true) :
    addendStep sub f z c p = fpUnimplemented := by
  simp [addendStep, hc.1, hc.2, (isNan_eq_false_iff _).2 hp, h]

theorem addendStep_of_implemented (h : unimplementedOperand f.dn c ≠ true) :
    addendStep sub f z c p = addendNumberStep sub f z c p := by
  simp [addendStep, hc.1, hc.2, (isNan_eq_false_iff _).2 hp, h]

/-- An overflow's immediate is the result when the old Rdest is finite (R429). -/
theorem addendStep_of_immediate (h : unimplementedOperand f.dn c ≠ true) (overflowed : p.overflowed = true)
    (finite : fpClass (flushOperand f.dn c) ≠ .infinity) :
    addendStep sub f z c p = fpPlain (addedProduct sub p.product) := by
  rw [addendStep_of_implemented hc hp h, addendNumberStep_eq, if_pos ⟨overflowed, finite⟩]

/-- Any other product is added as FADD adds it to the old Rdest (R428). -/
theorem addendStep_of_sum (settled : fpClass p.product ≠ .denormalized)
    (sum : p.overflowed = true → fpClass (flushOperand f.dn c) = .infinity) :
    addendStep sub f z c p = fpTwoOperand (addTable f.rm) f z c (addedProduct sub p.product) := by
  have number : IsNumber (addedProduct sub p.product) := by simpa [IsNumber] using hp
  have q_settled : fpClass (addedProduct sub p.product) ≠ .denormalized := by simpa using settled
  by_cases unimplemented : unimplementedOperand f.dn c = true
  · rw [addendStep_of_unimplemented hc hp unimplemented,
      fpTwoOperand_of_unimplemented hc number (.inl unimplemented)]
  · rw [addendStep_of_implemented hc hp unimplemented,
      fpTwoOperand_of_implemented hc number unimplemented (implemented_of_ne q_settled _),
      flushOperand_of_ne q_settled, addendNumberStep_eq,
      if_neg fun ⟨overflowed, finite⟩ => finite (sum overflowed)]
    exact cellResult_congr (fpSign_flushOperand _ _) rfl _

end Number

end Addend

/-! ## Both steps -/

theorem detectedUnion_none (x : Detected) : detectedUnion x detectedNone = x := by
  simp [detectedUnion, detectedNone]

/-- What raises still raises with more detected (R405). -/
theorem FpRaises.union {f : Fpsr} {x : Detected} (h : FpRaises f x) (y : Detected) :
    FpRaises f (detectedUnion x y) := by
  rw [← fpTraps_iff] at h ⊢
  simp only [fpTraps, detectedUnion, Bool.or_eq_true, Bool.and_eq_true] at h ⊢
  tauto

section MultiplyAdd

variable {sub : Bool} {f : Fpsr} {z₁ z₂ : Bool} {a b c : Word}

/-- A trap of step 1 ends the instruction (R428). -/
theorem multiplyAdd_of_raises (raises : FpRaises f (productStep f z₁ a b).detected) :
    multiplyAdd sub f z₁ z₂ a b c =
      { detected := detectedUnion (productStep f z₁ a b).detected (addendCauses f c), value := 0 } :=
  if_pos ((fpTraps_iff _ _).2 raises)

/-- Else what both steps detect counts (R428). -/
theorem multiplyAdd_of_not_raises (quiet : ¬ FpRaises f (productStep f z₁ a b).detected) {x : FpResult}
    (step : addendStep sub f z₂ c (productStep f z₁ a b) = x) :
    multiplyAdd sub f z₁ z₂ a b c =
      { detected := detectedUnion (productStep f z₁ a b).detected x.detected, value := x.value } := by
  subst step
  exact if_neg ((fpTraps_iff _ _).not.2 quiet)

end MultiplyAdd

/-- What the class of c adds, in the words of the statement (R428, R429, log 24). -/
theorem addendCauses_eq (f : Fpsr) (c : Word) :
    addendCauses f c =
      { ivld := decide (fpClass c = .snan), uipl := decide (fpClass c = .denormalized) && !f.dn } := by
  rw [addendCauses, unimplementedOperand, Bool.and_comm]

/-- A finite old Rdest is a number, implemented, and no infinity when it is added (R402, R429). -/
theorem addend_of_finite {dn : Bool} {c : Word}
    (finite : fpClass c = .normalized ∨ fpClass c = .zero ∨ (fpClass c = .denormalized ∧ dn = true)) :
    IsNumber c ∧ unimplementedOperand dn c ≠ true ∧ fpClass (flushOperand dn c) ≠ .infinity := by
  rcases finite with h | h | ⟨h, rfl⟩
  all_goals simp [IsNumber, unimplementedOperand_iff, flushOperand, h]

/-- Settles O44: step 1 agrees with FMUL, and each clause is a row of step 2. -/
theorem multiplyAddSteps : Obligations.MultiplyAddSteps := by
  intro sub f z₁ z₂ a b c m r q sum isNumber added
  have agrees : StepAgrees f (productStep f z₁ a b) m := stepAgrees_productStep f z₁ a b
  have trapped (raises : FpRaises f m.detected) :
      r = { detected := detectedUnion m.detected added, value := 0 } := by
    have added_eq : addendCauses f c = added := addendCauses_eq f c
    rw [← agrees.detected] at raises ⊢
    rw [← added_eq]
    exact multiplyAdd_of_raises raises
  have both (quiet : ¬ FpRaises f m.detected) {x : FpResult}
      (step : addendStep sub f z₂ c (productStep f z₁ a b) = x) :
      r = { detected := detectedUnion m.detected x.detected, value := x.value } := by
    rw [← agrees.detected] at quiet ⊢
    exact multiplyAdd_of_not_raises quiet step
  have only_step1 (quiet : ¬ FpRaises f m.detected) {v : Word}
      (step : addendStep sub f z₂ c (productStep f z₁ a b) = fpPlain v) :
      r = { detected := m.detected, value := v } :=
    (both quiet step).trans (by rw [fpPlain, detectedUnion_none])
  refine ⟨fun raises => ?raises, fun quiet noOverflow hc hm => ?sum, fun quiet hc hm => ?nan,
    fun quiet overflow finite => ?immediate, fun quiet overflow denormalized dn => ?unimplemented,
    fun quiet overflow infinite => ?infinity, fun quiet qnan => ?qnan, fun quiet snan => ?snan⟩
  case raises =>
    rw [trapped raises]
    exact ⟨rfl, raises.union added⟩
  case sum =>
    have product := agrees.product noOverflow
    have finite : (productStep f z₁ a b).overflowed ≠ true := by simp [agrees.overflowed, noOverflow]
    refine both (x := sum) quiet ?_
    rw [addendStep_of_sum hc (product ▸ hm) (product ▸ agrees.settled) (absurd · finite), product]
    rfl
  case nan =>
    have product := agrees.product (Bool.eq_false_iff.2 fun overflow => hm (agrees.number overflow))
    exact only_step1 (v := m.value) quiet (by rw [addendStep_of_nan_product hc (product ▸ hm), product])
  case immediate =>
    obtain ⟨hc, implemented, notInfinite⟩ := addend_of_finite finite
    have product := agrees.immediate overflow
    obtain ⟨number, -⟩ := overflowValue_proper f.rm (m.value.getLsbD 31)
    refine only_step1 quiet ?_
    rw [addendStep_of_immediate hc (product ▸ number) implemented (agrees.overflowed.trans overflow) notInfinite,
      product]
    rfl
  case unimplemented =>
    have hc : IsNumber c := isNumber_of_denormalized denormalized
    have product := agrees.immediate overflow
    obtain ⟨number, -⟩ := overflowValue_proper f.rm (m.value.getLsbD 31)
    rw [both quiet (addendStep_of_unimplemented hc (product ▸ number)
      ((unimplementedOperand_iff _ _).2 ⟨dn, denormalized⟩))]
    rfl
  case infinity =>
    intro p y
    have hc : IsNumber c := by simp [IsNumber, infinite]
    have kept : fpClass (flushOperand f.dn c) = .infinity := by simp [flushOperand, infinite]
    have product := agrees.immediate overflow
    obtain ⟨number, settled⟩ := overflowValue_proper f.rm (m.value.getLsbD 31)
    refine both (x := y) quiet ?_
    rw [addendStep_of_sum hc (product ▸ number) (product ▸ settled) fun _ => kept, product]
    rfl
  case qnan => exact only_step1 quiet (addendStep_of_qnan qnan)
  case snan => exact both quiet (addendStep_of_snan snan)

end Sys2Proof.Machine
end

section
/-! PROOFS, part 5 of the floating-point arithmetic: the commit (spec/47_fp_common_arith.md R405, R406,
spec/70_reset_and_hazards.md R562). Each of the twelve instructions is one commit of one result; with everything
masked the commit completes because no result is unimplemented while DN = 1. -/

namespace Sys2Proof.Machine

/-! ## The commit -/

/-- An instruction that commits a result commits it as R405 says. -/
theorem fpCommits_of_exec {i : Instr} {s : State} {d : Reg} {x : FpResult} (he : exec i s = fpCommit s d x) :
    FpCommits i d x s := by
  obtain ⟨t, ht⟩ := fpCommit_runs s d x
  rcases fpCommit_next ht with ⟨raises, trapped⟩ | ⟨quiet, completed, -⟩
  · exact ⟨absurd raises, fun _ => ⟨t, he.trans ht, trapped⟩⟩
  · exact ⟨fun _ => ⟨t, he.trans ht, completed⟩, (absurd · quiet)⟩

/-- The two halves of a floating-point code are eight positions in a row (R134). -/
theorem floatCode_eq (r1 r2 op3 d op4 : BitVec 4) :
    floatCode r1 r2 op3 d op4 =
      (0xD : BitVec 4) ++ r1 ++ (0 : BitVec 4) ++ r2 ++ op3 ++ d ++ op4 ++ (0 : BitVec 4) := by
  have assoc (high : Half) :
      high ++ (op3 ++ d ++ op4 ++ (0 : BitVec 4)) = high ++ op3 ++ d ++ op4 ++ (0 : BitVec 4) := by
    simp only [BitVec.append_assoc, BitVec.cast_eq]
  exact assoc (joinHalf 0xD r1 0 r2)

/-- A floating-point instruction has the code that the encoder writes. -/
theorem codeFp_of_encode {i : Instr} {r1 r2 op3 d op4 : BitVec 4} (wf : i.wellFormed = true)
    (he : encode i = .word (floatCode r1 r2 op3 d op4)) : CodeFp i r1 r2 op3 d op4 :=
  hasCode_of_encode wf (he.trans (congrArg Code.word (floatCode_eq ..)))

/-- Settles O37: each instruction commits the result of its table with the signs it draws. -/
theorem fpArithmeticCommits : Obligations.FpArithmeticCommits := fun _ _ _ _ =>
  ⟨codeFp_of_encode rfl rfl, codeFp_of_encode rfl rfl, codeFp_of_encode rfl rfl, codeFp_of_encode rfl rfl,
    codeFp_of_encode rfl rfl, codeFp_of_encode rfl rfl, ⟨_, fpCommits_of_exec rfl⟩, ⟨_, fpCommits_of_exec rfl⟩,
    ⟨_, fpCommits_of_exec rfl⟩, ⟨_, fpCommits_of_exec rfl⟩, ⟨_, _, fpCommits_of_exec rfl⟩,
    ⟨_, _, fpCommits_of_exec rfl⟩⟩

/-! ## With everything masked -/

/-- With everything masked only an unimplemented operation raises (R405, R562). -/
theorem not_raises_of_masked {f : Fpsr} {x : Detected} (masked : FpMasked f) (implemented : x.uipl = false) :
    ¬ FpRaises f x := by
  obtain ⟨ex, eu, ez, eo, ev, -⟩ := masked
  simp [FpRaises, implemented, ex, eu, ez, eo, ev]

section Implemented

variable {f : Fpsr} (dn : f.dn = true)
include dn

/-- An underflow is unimplemented only with DN = 0 (R411). -/
theorem finish_uipl (z : Bool) (v : Exact) : (finish f z v).detected.uipl = false := by
  by_cases tiny : isTiny v = true
  · rw [finish_of_tiny tiny, underflowDetected, dn]
    rfl
  · by_cases beyond : 127 < (round24 f.rm v).exponent
    · rw [finish_of_overflow tiny beyond]
      rfl
    · rw [finish_of_normalized tiny (not_lt.1 beyond)]

theorem cellResult_uipl (z : Bool) (a b : Word) (c : TableCell) :
    (cellResult f z a b c).detected.uipl = false := by
  cases c with
  | exact v => exact finish_uipl dn z v
  | special | ivld | div0 => rfl

theorem fpTwoOperand_uipl (table : Word → Word → TableCell) (z : Bool) (a b : Word) :
    (fpTwoOperand table f z a b).detected.uipl = false := by
  unfold fpTwoOperand
  split_ifs with _ _ unimplemented
  · rfl
  · rfl
  · exact absurd unimplemented (not_or.2 ⟨implemented_of_dn dn a, implemented_of_dn dn b⟩)
  · exact cellResult_uipl dn z a b _

theorem addendStep_uipl (sub : Bool) (z : Bool) (c : Word) (p : ProductStep) :
    (addendStep sub f z c p).detected.uipl = false := by
  unfold addendStep
  split_ifs with _ _ _ unimplemented
  · rfl
  · rfl
  · rfl
  · exact absurd unimplemented (implemented_of_dn dn c)
  · rw [addendNumberStep_eq]
    split
    · rfl
    · exact cellResult_uipl dn z _ _ _

theorem multiplyAdd_uipl (sub z₁ z₂ : Bool) (a b c : Word) :
    (multiplyAdd sub f z₁ z₂ a b c).detected.uipl = false := by
  have step1 : (productStep f z₁ a b).detected.uipl = false := by
    rw [(stepAgrees_productStep f z₁ a b).detected]
    exact fpTwoOperand_uipl (f := { f with rm := .towardZero }) dn mulTable z₁ a b
  have added : (addendCauses f c).uipl = false := Bool.eq_false_iff.2 (implemented_of_dn dn c)
  have step2 := addendStep_uipl dn sub z₂ c (productStep f z₁ a b)
  by_cases raises : FpRaises f (productStep f z₁ a b).detected
  · simp [multiplyAdd_of_raises raises, detectedUnion, step1, added]
  · simp [multiplyAdd_of_not_raises raises rfl, detectedUnion, step1, step2]

theorem toInteger_uipl (width : Nat) (x : Word) : (toInteger width f x).detected.uipl = false := by
  unfold toInteger
  split
  case h_4 =>
    rw [dn]
    rfl
  case h_6 =>
    unfold finiteToInteger
    dsimp only
    split <;> rfl
  all_goals rfl

theorem compareResult_uipl (qnanInvalid : Bool) (draw : Nat) (a b : Word) :
    (compareResult qnanInvalid f draw a b).detected.uipl = false := by
  unfold compareResult
  split_ifs with _ _ _ unimplemented
  · rfl
  · rfl
  · rfl
  · exact absurd unimplemented (not_or.2 ⟨implemented_of_dn dn a, implemented_of_dn dn b⟩)
  · rfl

end Implemented

theorem fromInteger_uipl (rm : RoundingMode) (x : Int) : (fromInteger rm x).detected.uipl = false := by
  unfold fromInteger
  split <;> rfl

/-- Each of the twelve commits one result, which with DN = 1 is never unimplemented (R405, R406). -/
theorem exec_float {i : Instr} {s : State} (float : i.isFloat = true) (dn : s.fpsr.dn = true) :
    ∃ d x, exec i s = fpCommit s d x ∧ x.detected.uipl = false := by
  cases i
  case fadd | fsub | fmul | fdiv => exact ⟨_, _, rfl, fpTwoOperand_uipl dn ..⟩
  case fmadd | fmsub => exact ⟨_, _, rfl, multiplyAdd_uipl dn ..⟩
  case itof | utof => exact ⟨_, _, rfl, fromInteger_uipl ..⟩
  case ftoi | ftos => exact ⟨_, _, rfl, toInteger_uipl dn ..⟩
  case fcmp | fcmpe => exact ⟨_, _, rfl, compareResult_uipl dn ..⟩
  all_goals exact absurd float Bool.false_ne_true

/-- Settles O38: what is committed is implemented, so nothing raises and the commit completes. -/
theorem maskedFpCompletes : Obligations.MaskedFpCompletes := by
  intro i s float masked
  obtain ⟨d, x, he, implemented⟩ := exec_float float masked.dn
  exact ⟨d, x, (fpCommits_of_exec he).completes (not_raises_of_masked masked implemented)⟩

end Sys2Proof.Machine
end

section
/-! PROOFS of the statements about bit operations (spec/49_bit_operations.md). BSET and BCLR are one
read-modify-write of a byte with different functions of it; BTST writes C alone, SETPSW and CLRPSW write the PSW
alone. -/

namespace Sys2Proof.Machine

/-! ## Bits in memory -/

/-- An instruction that replaces one byte of memory, read and written back as one access (R481, R482). -/
theorem runs_modifyByte {i : Instr} {s : State} {ea : Word} {f : Byte → Byte} (wf : s.mem.wf = true)
    (he : exec i s = modifyByte s ea f) :
    Runs i s (fun t =>
      ByteModified ea f s t ∧ t.lock = false ∧ RegsKept s t ∧ Frame [.mem, .device, .lock] s t) := by
  obtain ⟨modified, lock, regs, frame, -⟩ := modifyByte_next wf (rfl : modifyByte s ea f = .next _)
  exact ⟨_, he, modified, lock, regs, frame⟩

/-- Settles O25: BSET sets the bit of the mask in the byte, BCLR clears it. -/
theorem bitsInMemory : Obligations.BitsInMemory := fun _ _ _ _ wf =>
  ⟨⟨hasCode_of_encode rfl rfl, runs_modifyByte wf rfl⟩,
    ⟨hasCode_of_encode rfl rfl, runs_modifyByte wf rfl⟩⟩

/-! ## Bits of the PSW -/

/-- An instruction whose whole effect is a new PSW. -/
theorem runs_withPsw {i : Instr} {s : State} {p : Psw} {len : Word}
    (he : exec i s = .next ({ s with psw := p }.advance len)) :
    Runs i s (fun t => t.psw = p ∧ RegsKept s t ∧ Frame [.psw] s t) := by
  have moved : Frame [.psw] s (s.advance len) := (advance_onlyPc s len).frame.mono (by simp)
  exact ⟨_, he, rfl, ⟨rfl, rfl, rfl⟩, moved.withPsw p (by simp)⟩

/-- SETPSW sets each of three bits where the immediate has a 1 and keeps it elsewhere (R484). -/
theorem pswAfterSet_eq (p : Psw) (imm : BitVec 8) : pswAfterSet p imm =
    { p with
      sm := if imm.getLsbD 7 then true else p.sm
      ie := if imm.getLsbD 6 then true else p.ie
      c := if imm.getLsbD 0 then true else p.c } := by
  have set_eq (old bit : Bool) : (old || bit) = if bit then true else old := by cases bit <;> simp
  simp only [pswAfterSet, set_eq]

/-- CLRPSW clears each of three bits where the immediate has a 1 and keeps it elsewhere (R485). -/
theorem pswAfterClear_eq (p : Psw) (imm : BitVec 8) : pswAfterClear p imm =
    { p with
      sm := if imm.getLsbD 7 then false else p.sm
      ie := if imm.getLsbD 6 then false else p.ie
      c := if imm.getLsbD 0 then false else p.c } := by
  have clear_eq (old bit : Bool) : (old && !bit) = if bit then false else old := by cases bit <;> simp
  simp only [pswAfterClear, clear_eq]

/-- Settles O26: BTST writes C with the bit that it names, SETPSW and CLRPSW write the PSW. -/
theorem bitTestAndPswBits : Obligations.BitTestAndPswBits := by
  intro n r imm s
  refine ⟨⟨hasCode_of_encode rfl rfl, runs_flagNext rfl⟩, ⟨code16Byte_of_encode rfl rfl, ?_⟩,
    ⟨code16Byte_of_encode rfl rfl, ?_⟩⟩
  · exact pswAfterSet_eq s.psw imm ▸ runs_withPsw rfl
  · exact pswAfterClear_eq s.psw imm ▸ runs_withPsw rfl

end Sys2Proof.Machine
end

section
/-! PROOFS of the statement about what is asserted at an instruction boundary (spec/60_exceptions.md R520 to R522,
spec/70_reset_and_hazards.md R560): the branches of `step` before the fetch, one lemma each. -/

namespace Sys2Proof.Machine

/-- Reset comes before everything else (R560). -/
theorem step_of_reset {s : State} (h : s.input = .reset) : step s = .next s.hostReset := if_pos h

/-- An interrupt is accepted when it is requested, enabled, and the pc is at a word boundary (R521, log 9). -/
theorem acceptsInterrupt_iff (s : State) :
    s.acceptsInterrupt = true ↔ s.input = .interrupt ∧ s.psw.ie = true ∧ s.pc.toNat % 4 = 0 := by
  simp [State.acceptsInterrupt, wordAligned_iff, and_assoc]

/-- An accepted interrupt is taken (R521). -/
theorem step_of_interrupt {s : State} (h : s.acceptsInterrupt = true) : step s = .next s.takeInterrupt := by
  obtain ⟨requested, -, aligned⟩ := (acceptsInterrupt_iff s).1 h
  obtain ⟨even, -⟩ := wordAligned_bits ((wordAligned_iff s.pc).2 aligned)
  rw [step, if_neg (by simp [requested]), even, if_neg Bool.false_ne_true, if_pos h]

/-- An even address is its own value without bit [0] (R46). -/
theorem clearBit0_of_even {v : Word} (even : v.getLsbD 0 = false) : clearBit0 v = v := by
  have bits : ∀ j : Fin 32, (0xFFFFFFFE : Word).getLsbD j.val = decide (j.val ≠ 0) := by decide
  apply BitVec.eq_of_getLsbD_eq
  intro i hi
  rw [clearBit0, BitVec.getLsbD_and, bits ⟨i, hi⟩]
  by_cases h : i = 0
  · subst h
    rw [even, Bool.false_and]
  · simp [h]

/-- Settles O55: reset and an accepted interrupt are branches of their own; a refused interrupt leaves the step
to the fetch, which does not look at the input passed. -/
theorem boundaryEvents : Obligations.BoundaryEvents := by
  intro s even s'
  refine ⟨fun reset => ?reset, fun requested enabled aligned => ?taken, fun requested refused => ?refused⟩
  case reset =>
    exact ⟨_, step_of_reset reset, ⟨rfl, rfl, rfl⟩, rfl, rfl, rfl, rfl, rfl, rfl, fun _ => rfl, rfl, rfl, rfl,
      rfl, rfl⟩
  case taken =>
    have entered := eitEntry_entered s' .ei s.pc
    rw [show s.pc &&& 0xFFFFFFFE = s.pc from clearBit0_of_even even] at entered
    exact ⟨_, step_of_interrupt ((acceptsInterrupt_iff s).2 ⟨requested, enabled, aligned⟩), entered⟩
  case refused =>
    let quiet : State := { s with inputs := .quiet :: s.inputs.tail }
    have s_runs : s.acceptsInterrupt = false := by
      rw [← Bool.not_eq_true, acceptsInterrupt_iff]
      rintro ⟨-, enabled, aligned⟩
      rcases refused with disabled | misaligned
      · exact Bool.false_ne_true (disabled.symm.trans enabled)
      · exact misaligned aligned
    calc step s = _ := step_runs even (by simp [requested]) s_runs
      _ = step quiet := (step_runs (s := quiet) even nofun rfl).symm

end Sys2Proof.Machine
end

section
/-! PROOFS of the statements about floating-point conversions and compares (spec/48_fp_convert_compare.md). An
integer is rounded by `round24` and stays in the normalized range; a word is truncated as its magnitude in units of
2^-149 is divided; the compares order words as their signed units are ordered, an infinity beyond every number. -/

namespace Sys2Proof.Machine

/-! ## Integers to floating point -/

/-- The exponent of a rounded value is no more than that of a power of two above it (R403). -/
theorem RoundsTo.exponent_le {rm : RoundingMode} {q : ℚ} {y : Rounded} {e b : Int} {n : Nat}
    (h : RoundsTo rm q y e n) (below : |q| < 2 ^ b) : y.exponent ≤ b := by
  have power : (2 : ℚ) ^ e < 2 ^ b := h.atLeast.trans_lt below
  rw [zpow_lt_zpow_iff_right₀ one_lt_two] at power
  by_cases carry : n = 2 ^ 24
  · rw [(h.carried carry).1]
    omega
  · rw [(h.plain carry).1]
    exact power.le

/-- An integer other than zero that fits a word is rounded, to a normalized number (R451, R452). -/
theorem fromInteger_rounds (rm : RoundingMode) {k : Int} (nonzero : k ≠ 0) (fits : |k| < 2 ^ 32) :
    ∃ (y : Rounded) (e : Int) (n : Nat), RoundsTo rm k y e n ∧
      (fromInteger rm k).detected = { ixct := decide (y.value ≠ k) } ∧
      fpClass (fromInteger rm k).value = .normalized ∧ fpValue (fromInteger rm k).value = y.value := by
  have means := means_of_int nonzero one_ne_zero
  rw [Nat.cast_one, div_one] at means
  obtain ⟨e, n, rounds⟩ := round24_roundsTo rm means
  have at_least_one : (1 : ℚ) ≤ |(k : ℚ)| := mod_cast Int.one_le_abs nonzero
  have below : |(k : ℚ)| < 2 ^ (32 : Int) := mod_cast fits
  have low : -126 ≤ (round24 rm _).exponent := rounds.neg_126_le_exponent (le_trans (by norm_num) at_least_one)
  have high : (round24 rm _).exponent ≤ 127 := (rounds.exponent_le below).trans (by decide)
  obtain ⟨sig_low, sig_high⟩ := rounds.sig_bounds
  refine ⟨_, e, n, rounds, ?_⟩
  rw [← rounds.inexact_eq, fromInteger, if_neg nonzero]
  exact ⟨rfl, fpClass_packRounded low high, fpValue_packRounded low high sig_low sig_high⟩

/-- Settles O45: ITOF rounds the signed reading of Rsrc, UTOF the unsigned one. -/
theorem integerToFloat : Obligations.IntegerToFloat := by
  intro d r s
  refine ⟨codeFp_of_encode rfl rfl, codeFp_of_encode rfl rfl, ?_⟩
  intro converts
  have converts_of {i : Instr} {k : Int} (he : exec i s = fpCommit s d (fromInteger s.fpsr.rm k))
      (fits : |k| < 2 ^ 32) : converts i k :=
    ⟨_, fpCommits_of_exec he, fun zero => if_pos zero, fun nonzero => fromInteger_rounds _ nonzero fits⟩
  have signed : |(s.readReg r).toInt| < 2 ^ 32 := by
    have low := BitVec.le_toInt (s.readReg r)
    have high := BitVec.toInt_lt (x := s.readReg r)
    rw [abs_lt]
    omega
  have unsigned : |((s.readReg r).toNat : Int)| < 2 ^ 32 := by
    have := (s.readReg r).isLt
    rw [abs_lt]
    omega
  exact ⟨converts_of rfl signed, converts_of rfl unsigned⟩

/-! ## Floating point to integers -/

/-- The magnitude of a zero is 0 (R401). -/
theorem fpMagnitude_of_zero {x : Word} (h : fpClass x = .zero) : fpMagnitude x = 0 := by
  unfold fpClass at h
  unfold fpMagnitude
  split_ifs at h ⊢ with _ _ _ _ frac
  exact congrArg BitVec.toNat frac

/-- Truncating a finite word divides its magnitude and keeps its sign (R458). -/
theorem truncated_eq (x : Word) :
    truncated x = if fpValue x < 0 then ⌈fpValue x⌉ else ⌊fpValue x⌋ := by
  have floor : ⌊(fpMagnitude x : ℚ) / 2 ^ 149⌋ = (fpMagnitude x / 2 ^ 149 : Nat) := by
    exact_mod_cast Rat.floor_natCast_div_natCast (fpMagnitude x) (2 ^ 149)
  have nonneg : 0 ≤ (fpMagnitude x : ℚ) / 2 ^ 149 := by positivity
  rw [fpValue_eq, truncated]
  cases fpSign x
  · rw [signFactor_false, one_mul, if_neg nonneg.not_gt, floor, if_neg Bool.false_ne_true]
  · rw [signFactor_true, neg_one_mul, if_pos rfl, Int.ceil_neg, floor]
    split
    · rfl
    · next zero =>
      have zero : (fpMagnitude x : ℚ) / 2 ^ 149 = 0 := le_antisymm (by linarith) nonneg
      rw [← floor, zero, neg_zero]
      simp

/-- Truncation loses something exactly when the division leaves a remainder (R458). -/
theorem truncated_ne_iff (x : Word) : fpMagnitude x % 2 ^ 149 ≠ 0 ↔ (truncated x : ℚ) ≠ fpValue x := by
  have sign_ne : signFactor (fpSign x) ≠ 0 := abs_ne_zero.1 (by simp)
  have value : (truncated x : ℚ) = signFactor (fpSign x) * (fpMagnitude x / 2 ^ 149 : Nat) := by
    unfold truncated
    cases fpSign x
    · exact (one_mul _).symm
    · exact (Int.cast_neg _).trans (neg_one_mul _).symm
  have quotient := div_eq_quotient_add (fpMagnitude x) (d := 2 ^ 149) (by positivity)
  rw [Nat.cast_pow, Nat.cast_ofNat] at quotient
  rw [value, fpValue_eq, ne_eq, ne_eq, mul_right_inj' sign_ne, quotient, left_eq_add, div_eq_zero_iff,
    or_iff_left (by positivity), Nat.cast_eq_zero]

/-! ### `ftoint(W)`, row by row -/

section ToInteger

variable {width : Nat} {f : Fpsr} {x : Word}

/-- A NaN or an infinity is invalid (R458). -/
theorem toInteger_of_invalid (h : fpClass x = .qnan ∨ fpClass x = .snan ∨ fpClass x = .infinity) :
    toInteger width f x = fpInvalid (saturate width (fpSign x)) := by
  rcases h with h | h | h <;> simp only [toInteger, h]

/-- A denormalized number is unimplemented with DN = 0 and 0 with DN = 1 (R458). -/
theorem toInteger_of_denormalized (h : fpClass x = .denormalized) :
    toInteger width f x = if f.dn then fpPlain 0 else fpUnimplemented := by
  simp only [toInteger, h]

/-- A finite word is truncated, and saturates when that is out of range (R458, log 18). -/
theorem finiteToInteger_eq : finiteToInteger width x =
    if truncated x < -2 ^ (width - 1) ∨ 2 ^ (width - 1) - 1 < truncated x then
      fpInvalid (saturate width (fpSign x))
    else
      { detected := { ixct := decide ((truncated x : ℚ) ≠ fpValue x) }, value := .ofInt 32 (truncated x) } := by
  simp only [finiteToInteger, or_comm, gt_iff_lt, truncated_ne_iff]

/-- A zero is truncated like every finite number (R458). -/
theorem toInteger_of_finite (h : fpClass x = .normalized ∨ fpClass x = .zero) :
    toInteger width f x = finiteToInteger width x := by
  rcases h with h | h
  · simp only [toInteger, h]
  · have magnitude := fpMagnitude_of_zero h
    have zero : truncated x = 0 := by simp [truncated, magnitude]
    have in_range : (0 : Int) < 2 ^ (width - 1) := by positivity
    have fits : ¬ (truncated x > 2 ^ (width - 1) - 1 ∨ truncated x < -2 ^ (width - 1)) := by omega
    rw [finiteToInteger, if_neg fits, zero, magnitude]
    simp only [toInteger, h]
    rfl

end ToInteger

/-- Settles O46: each class of Rsrc is a row of `ftoint(W)`, with the limits of W bits. -/
theorem floatToInteger : Obligations.FloatToInteger := by
  intro d r s
  refine ⟨codeFp_of_encode rfl rfl, codeFp_of_encode rfl rfl, ?_⟩
  intro v t converts
  have t_eq : truncated v = t := truncated_eq v
  have converts_of {i : Instr} (width : Nat) {low high : Int} {lowWord highWord : Word}
      (he : exec i s = fpCommit s d (toInteger width s.fpsr v)) (low_eq : -2 ^ (width - 1) = low)
      (high_eq : 2 ^ (width - 1) - 1 = high)
      (saturates : ∀ neg, saturate width neg = if neg then lowWord else highWord) :
      converts i low high lowWord highWord := by
    have invalid_eq : fpInvalid (saturate width (fpSign v)) =
        { detected := { ivld := true }, value := if v.getLsbD 31 then lowWord else highWord } := by
      rw [saturates, fpSign_eq]
      rfl
    refine ⟨_, fpCommits_of_exec he, fun noNumber => ?_, fun denormalized dn => ?_, fun denormalized dn => ?_,
      fun finite => ?_⟩
    · rw [toInteger_of_invalid noNumber, invalid_eq]
    · rw [toInteger_of_denormalized denormalized, dn]
      rfl
    · rw [toInteger_of_denormalized denormalized, dn]
      rfl
    · rw [toInteger_of_finite finite, finiteToInteger_eq, invalid_eq, low_eq, high_eq, t_eq]
  exact ⟨converts_of 32 rfl rfl rfl (by decide), converts_of 16 rfl rfl rfl (by decide)⟩

/-! ## The order of words -/

/-- A word is its sign, its exponent and its fraction (R400). -/
theorem toNat_eq_fields (x : Word) :
    x.toNat = (fpSign x).toNat * 2 ^ 31 + (fpExp x).toNat * 2 ^ 23 + (fpFrac x).toNat := by
  have := x.isLt
  have sign : (fpSign x).toNat = x.toNat / 2 ^ 31 := by
    rw [fpSign, BitVec.msb_eq_decide]
    by_cases h : 2 ^ 31 ≤ x.toNat
    · rw [decide_eq_true h, Bool.toNat_true]
      omega
    · rw [decide_eq_false h, Bool.toNat_false]
      omega
  rw [sign, fpExp, fpFrac, BitVec.extractLsb'_toNat, BitVec.extractLsb'_toNat, Nat.shiftRight_eq_div_pow,
    Nat.shiftRight_zero]
  omega

/-- There is one infinity of each sign (R401). -/
theorem eq_fpInfinity {x : Word} (h : fpClass x = .infinity) : x = fpInfinity (fpSign x) := by
  unfold fpClass at h
  split_ifs at h with exp frac
  apply BitVec.eq_of_toNat_eq
  rw [toNat_eq_fields, exp, frac]
  cases fpSign x <;> rfl

/-- The magnitude that an infinity comes out with. -/
def infinityMagnitude : Nat := 2 ^ 23 * 2 ^ 254

theorem fpUnits_fpInfinity (neg : Bool) :
    fpUnits (fpInfinity neg) = if neg then -(infinityMagnitude : Int) else infinityMagnitude := by
  cases neg <;> rfl

/-- A number's exponent is 255 for the infinities alone (R401). -/
theorem fpExp_ne_top {x : Word} (number : IsNumber x) (finite : fpClass x ≠ .infinity) : fpExp x ≠ 255 := by
  intro top
  unfold IsNumber at number
  unfold fpClass at number finite
  rw [if_pos top] at number finite
  split_ifs at number finite
  · exact finite rfl
  · exact number.2 rfl
  · exact number.1 rfl

/-- The magnitude of a finite number is below that of an infinity (R459). -/
theorem fpMagnitude_lt {x : Word} (exp_ne : fpExp x ≠ 255) : fpMagnitude x < infinityMagnitude := by
  have frac := (fpFrac x).isLt
  unfold fpMagnitude infinityMagnitude
  split
  · exact frac.trans_le (Nat.le_mul_of_pos_right _ (by positivity))
  · have exp : (fpExp x).toNat - 1 ≤ 253 := by
      have top : (fpExp x).toNat ≠ 255 := fun h => exp_ne (BitVec.eq_of_toNat_eq h)
      have := (fpExp x).isLt
      omega
    calc (2 ^ 23 + (fpFrac x).toNat) * 2 ^ ((fpExp x).toNat - 1)
        ≤ (2 ^ 23 + (fpFrac x).toNat) * 2 ^ 253 := by gcongr; decide
      _ < 2 ^ 24 * 2 ^ 253 := by gcongr; omega
      _ = 2 ^ 23 * 2 ^ 254 := by ring

/-- A finite number lies between the infinities (R459). -/
theorem fpUnits_bounds {x : Word} (number : IsNumber x) (finite : fpClass x ≠ .infinity) :
    fpUnits (fpInfinity true) < fpUnits x ∧ fpUnits x < fpUnits (fpInfinity false) := by
  have := fpMagnitude_lt (fpExp_ne_top number finite)
  rw [fpUnits_fpInfinity, fpUnits_fpInfinity, fpUnits]
  cases fpSign x <;> simp <;> omega

theorem fpUnits_infinities_lt : fpUnits (fpInfinity true) < fpUnits (fpInfinity false) := by
  have : 0 < infinityMagnitude := by decide
  rw [fpUnits_fpInfinity, fpUnits_fpInfinity, if_pos rfl, if_neg Bool.false_ne_true]
  omega

/-- A word that is neither infinity is finite or a NaN (R401). -/
theorem ne_infinity_of_ne {x : Word} (bottom : x ≠ fpInfinity true) (top : x ≠ fpInfinity false) :
    fpClass x ≠ .infinity := by
  intro infinite
  have same := eq_fpInfinity infinite
  cases sign : fpSign x <;> rw [sign] at same
  · exact top same
  · exact bottom same

/-- Minus infinity is below every other number (R459). -/
theorem fpUnits_bottom_lt {x : Word} (number : IsNumber x) (bottom : x ≠ fpInfinity true) :
    fpUnits (fpInfinity true) < fpUnits x := by
  by_cases top : x = fpInfinity false
  · rw [top]
    exact fpUnits_infinities_lt
  · exact (fpUnits_bounds number (ne_infinity_of_ne bottom top)).1

/-- Plus infinity is above every other number (R459). -/
theorem fpUnits_lt_top {x : Word} (number : IsNumber x) (top : x ≠ fpInfinity false) :
    fpUnits x < fpUnits (fpInfinity false) := by
  by_cases bottom : x = fpInfinity true
  · rw [bottom]
    exact fpUnits_infinities_lt
  · exact (fpUnits_bounds number (ne_infinity_of_ne bottom top)).2

/-- Values are in the order of their units (R401). -/
theorem fpValue_lt_iff (a b : Word) : fpValue a < fpValue b ↔ fpUnits a < fpUnits b := by
  rw [fpValue_eq_fpUnits, fpValue_eq_fpUnits, div_lt_div_iff_of_pos_right (by positivity), Int.cast_lt]

/-- On numbers the order of the compares is that of their units (R459). -/
theorem fpBelow_iff {a b : Word} (ha : IsNumber a) (hb : IsNumber b) : FpBelow a b ↔ fpUnits a < fpUnits b := by
  constructor
  · rintro ⟨distinct, bottom | top | ⟨-, -, less⟩⟩
    · have bottom : a = fpInfinity true := bottom
      exact bottom ▸ fpUnits_bottom_lt hb (bottom ▸ distinct.symm)
    · have top : b = fpInfinity false := top
      exact top ▸ fpUnits_lt_top ha (top ▸ distinct)
    · exact (fpValue_lt_iff a b).1 less
  · intro less
    refine ⟨fun same => less.ne (congrArg fpUnits same), ?_⟩
    by_cases bottom : a = fpInfinity true
    · exact .inl bottom
    by_cases top : b = fpInfinity false
    · exact .inr (.inl top)
    have a_top : a ≠ fpInfinity false :=
      fun same => (less.trans (fpUnits_lt_top hb top)).ne (congrArg fpUnits same)
    have b_bottom : b ≠ fpInfinity true :=
      fun same => ((fpUnits_bottom_lt ha bottom).trans less).ne' (congrArg fpUnits same)
    exact .inr (.inr ⟨ne_infinity_of_ne bottom a_top, ne_infinity_of_ne b_bottom top,
      (fpValue_lt_iff a b).2 less⟩)

/-! ## The words of a compare -/

/-- The word drawn for "less" is of that class (R457). -/
theorem lessWord_class (draw : Nat) : LessWord (lessWord draw) := by
  rw [LessWord, lessWord, BitVec.getLsbD_append]
  rfl

/-- The word drawn for "greater" is of that class, whatever is drawn (R457, log 39). -/
theorem greaterWord_class (draw : Nat) : GreaterWord (greaterWord draw) := by
  obtain ⟨x, allowed, word⟩ :
      ∃ x : BitVec 31, greaterAllowed x = true ∧ greaterWord draw = (0 : BitVec 1) ++ x := by
    refine ⟨_, ?_, rfl⟩
    split
    · assumption
    · decide
  rw [greaterAllowed, Bool.and_eq_true, decide_eq_true_iff, decide_eq_true_iff] at allowed
  rw [word]
  refine ⟨?_, ?_, ?_⟩
  · rw [BitVec.getLsbD_append]
    rfl
  · intro zero
    exact allowed.1 (BitVec.append_right_inj (0 : BitVec 1) |>.1 zero)
  · rw [BitVec.extractLsb'_append_eq_of_add_le (by decide)]
    exact allowed.2

/-- The word drawn for "invalid" is of that class (R457). -/
theorem invalidWord_class (draw : Nat) : InvalidWord (invalidWord draw) := by
  constructor
  · rw [invalidWord, BitVec.getLsbD_append]
    rfl
  · rw [invalidWord, BitVec.extractLsb'_append_eq_of_le (by decide)]
    rfl

/-- The word of two numbers is of the class of their order (R457, R459). -/
theorem orderWord_class {a b : Word} (draw : Nat) (ha : IsNumber a) (hb : IsNumber b) :
    (FpBelow a b → LessWord (orderWord draw a b)) ∧ (FpBelow b a → GreaterWord (orderWord draw a b)) ∧
      (¬ FpBelow a b → ¬ FpBelow b a → orderWord draw a b = 0) := by
  rw [fpBelow_iff ha hb, fpBelow_iff hb ha]
  refine ⟨fun less => ?_, fun greater => ?_, fun notLess notGreater => ?_⟩
  · rw [orderWord, if_neg less.ne, if_pos less]
    exact lessWord_class draw
  · rw [orderWord, if_neg greater.ne', if_neg greater.not_gt]
    exact greaterWord_class draw
  · exact if_pos (le_antisymm (not_lt.1 notGreater) (not_lt.1 notLess))

/-! ### A compare, row by row -/

section Compare

variable {qnanInvalid : Bool} {f : Fpsr} {draw : Nat} {a b : Word}

/-- An SNaN is invalid (R455, R456). -/
theorem compareResult_of_snan (h : fpClass a = .snan ∨ fpClass b = .snan) :
    compareResult qnanInvalid f draw a b = fpInvalid (invalidWord draw) :=
  if_pos h

/-- A QNaN is invalid for FCMPE (R455, R456). -/
theorem compareResult_of_qnan (notSnan : ¬ (fpClass a = .snan ∨ fpClass b = .snan))
    (h : fpClass a = .qnan ∨ fpClass b = .qnan) :
    compareResult qnanInvalid f draw a b =
      { detected := { ivld := qnanInvalid }, value := invalidWord draw } := by
  rw [compareResult, if_neg notSnan, if_pos h]
  cases qnanInvalid <;> rfl

section Numbers

variable (ha : IsNumber a) (hb : IsNumber b)
include ha hb

/-- Then a denormalized operand is unimplemented when DN = 0 (R402). -/
theorem compareResult_of_unimplemented
    (h : unimplementedOperand f.dn a = true ∨ unimplementedOperand f.dn b = true) :
    compareResult qnanInvalid f draw a b = fpUnimplemented :=
  (if_neg (not_or.2 ⟨ha.1, hb.1⟩)).trans ((if_neg (not_or.2 ⟨ha.2, hb.2⟩)).trans (if_pos h))

/-- Then the word tells the order of the operands, a denormalized one being a zero (R457, R459). -/
theorem compareResult_of_implemented (ia : unimplementedOperand f.dn a ≠ true)
    (ib : unimplementedOperand f.dn b ≠ true) :
    compareResult qnanInvalid f draw a b =
      fpPlain (orderWord draw (flushOperand f.dn a) (flushOperand f.dn b)) :=
  (if_neg (not_or.2 ⟨ha.1, hb.1⟩)).trans
    ((if_neg (not_or.2 ⟨ha.2, hb.2⟩)).trans (if_neg (not_or.2 ⟨ia, ib⟩)))

end Numbers

end Compare

/-- An implemented operand is taken as itself, or as the zero of its sign when it is denormalized (R402). -/
theorem flushOperand_of_implemented {dn : Bool} {x : Word} (h : dn = true ∨ fpClass x ≠ .denormalized) :
    flushOperand dn x = if fpClass x = .denormalized then x &&& 0x80000000 else x := by
  split
  · next denormalized =>
    rw [h.resolve_right (not_not.2 denormalized), flushOperand_of_denormalized denormalized, and_signBit]
  · next other => exact flushOperand_of_ne other

/-- A number stays one when a denormalized operand is taken as a zero (R402). -/
theorem isNumber_flushOperand {x : Word} (number : IsNumber x) (dn : Bool) : IsNumber (flushOperand dn x) := by
  unfold flushOperand
  split
  · exact isNumber_fpZero _
  · exact number

/-- Settles O47: each clause is a row of the compare, and the last one is the order of units. -/
theorem floatCompare : Obligations.FloatCompare := by
  intro d a b s
  refine ⟨codeFp_of_encode rfl rfl, codeFp_of_encode rfl rfl, ?_⟩
  intro v w snan nan denormalized flush compares
  have numbers_of (notNan : ¬ nan) : IsNumber v ∧ IsNumber w := by
    obtain ⟨notSnan, notQnan⟩ := not_or.1 notNan
    obtain ⟨v_snan, w_snan⟩ := not_or.1 notSnan
    obtain ⟨v_qnan, w_qnan⟩ := not_or.1 notQnan
    exact ⟨⟨v_snan, v_qnan⟩, w_snan, w_qnan⟩
  have compares_of {i : Instr} {qnanInvalid : Bool}
      (he : exec i s = fpCommit s d (compareResult qnanInvalid s.fpsr s.drawIndex v w)) :
      compares i qnanInvalid := by
    refine ⟨_, fpCommits_of_exec he, fun isNan => ?nan, fun notNan dn denormal => ?unimplemented,
      fun notNan implemented => ?ordered⟩
    case nan =>
      by_cases isSnan : snan
      · rw [compareResult_of_snan isSnan]
        exact ⟨invalidWord_class _, fun _ => rfl, fun notSnan => absurd isSnan notSnan⟩
      · rw [compareResult_of_qnan isSnan (isNan.resolve_left isSnan)]
        exact ⟨invalidWord_class _, fun isSnan' => absurd isSnan' isSnan, fun _ => rfl⟩
    case unimplemented =>
      obtain ⟨v_number, w_number⟩ := numbers_of notNan
      have raises := denormal.imp (fun h => (unimplementedOperand_iff _ v).2 ⟨dn, h⟩)
        fun h => (unimplementedOperand_iff _ w).2 ⟨dn, h⟩
      rw [compareResult_of_unimplemented v_number w_number raises]
      rfl
    case ordered =>
      obtain ⟨v_number, w_number⟩ := numbers_of notNan
      have v_flush := implemented.imp_right fun h => (not_or.1 h).1
      have w_flush := implemented.imp_right fun h => (not_or.1 h).2
      rw [compareResult_of_implemented v_number w_number
        (v_flush.elim (implemented_of_dn · v) (implemented_of_ne · _))
        (w_flush.elim (implemented_of_dn · w) (implemented_of_ne · _))]
      have order := orderWord_class s.drawIndex (isNumber_flushOperand v_number s.fpsr.dn)
        (isNumber_flushOperand w_number s.fpsr.dn)
      simp only [flushOperand_of_implemented v_flush, flushOperand_of_implemented w_flush] at order ⊢
      exact ⟨rfl, order⟩
  exact ⟨compares_of rfl, compares_of rfl⟩

end Sys2Proof.Machine
end
